-- ==== Sys2Proof/Word.lean ====
section
/-! DEFINITION. The word types of the MRX message fields, the small named sets the manual uses, and the structures
that a command's operands are made of. -/

namespace Sys2Proof

/-- One byte of a message or of buffer memory. -/
abbrev Byte := BitVec 8
/-- A 16-bit field: a station number, a tag value, a probe number. -/
abbrev Half := BitVec 16
/-- A 32-bit field: a request number, a clip ID, an edition, a running count. -/
abbrev Word := BitVec 32
/-- A 64-bit field: a start block, an enqueue sequence. -/
abbrev Long := BitVec 64

/-- A stream handle, 0 to 127 (R19). -/
abbrev Handle := Fin 128
/-- A tag index, 0 to 511 (R105). -/
abbrev TagIndex := Fin 512
/-- A shed rule number, 0 to 3 (R165). -/
abbrev RuleNumber := Fin 4

/-- One Ethernet frame as it stands on a link, from its Ethernet destination address on (R202), without the frame
check sequence, which the Ethernet layer adds and removes. -/
abbrev Frame := List Byte

/-- The two external ports of the part. -/
inductive Port where
  | array
  | floor
  deriving DecidableEq, Repr

/-- What every arriving message brings besides its fields: the part's time when the port takes it, its source
station and the length of its body (R202). -/
structure Arrival where
  time : Nat
  src  : Half
  len  : Nat
  deriving DecidableEq, Repr

/-- One extent of an offered rendition record (chapter 10.4): start block and length in pages. -/
structure ExtentOffer where
  start : Long
  pages : Word
  deriving DecidableEq, Repr

/-- A rendition record as STAGE CLIP carries it (chapter 10.4): the extent count is a field of its own, and
`extents` are the extents that stand in the body. -/
structure RenditionOffer where
  volume      : Byte
  extentCount : Byte
  frameBlocks : Half
  frameCount  : Word
  extents     : List ExtentOffer
  deriving DecidableEq, Repr

/-- A clip entry as STAGE CLIP carries it (R185); edition and page bounds are not read at staging (R11). -/
structure ClipOffer where
  clipId        : Word
  numerator     : Word
  denominator   : Half
  firstTimecode : Word
  primary       : RenditionOffer
  proxy         : Option RenditionOffer
  deriving DecidableEq, Repr

/-- The seven settings that STAGE POLICY carries (chapter 10.4), times in milliseconds. -/
structure PolicyOffer where
  retryLimit  : Byte
  checkMode   : Byte
  starveLimit : Byte
  readTimeout : Half
  probeWindow : Byte
  guardTime   : Byte
  ceiling     : Word
  deriving DecidableEq, Repr

/-- The fields that STAGE RULE carries (chapter 10.4): a rule record and, when `comparator` is not 0, the settings
of one comparator. -/
structure RuleOffer where
  rule       : Byte
  enable     : Byte
  source     : Byte
  level      : Byte
  action     : Byte
  classes    : Byte
  comparator : Byte
  debounce   : Byte
  high       : Word
  low        : Word
  deriving DecidableEq, Repr

/-- The levels of the strap pins (R140). -/
structure Straps where
  station   : Half
  etherType : Half
  deriving DecidableEq, Repr

/-- A rendition of a clip (R4). -/
inductive Rendition where
  | primary
  | proxy
  deriving DecidableEq, Repr

/-- The choice of rendition given at OPEN (R24). -/
inductive Choice where
  | primary
  | proxy
  | auto
  deriving DecidableEq, Repr

/-- What a due time does with a frame that is not ready or has no credit (R19). -/
inductive LatePolicy where
  | skip
  | stall
  deriving DecidableEq, Repr

/-- The states of a stream record (R19, R21). -/
inductive StreamState where
  | closed
  | negotiating
  | idle
  | priming
  | primed
  | playing
  | paused
  | closing
  | faulted
  deriving DecidableEq, Repr

/-- Why a stream is paused (R41). -/
inductive PauseReason where
  | station
  | shed
  | starved
  deriving DecidableEq, Repr

/-- The states of a frame slot (R57). -/
inductive SlotState where
  | pending
  | ready
  | sending
  | failed
  deriving DecidableEq, Repr

/-- The states of a fetch record (R98). -/
inductive FetchState where
  | queued
  | deferred
  | issued
  deriving DecidableEq, Repr

/-- What the part does with a check-word mismatch (R109). -/
inductive CheckMode where
  | report
  | refetch
  deriving DecidableEq, Repr

/-- The sources a shed rule may name (R165). -/
inductive Source where
  | lat1
  | lat2
  | tags
  | quiesced
  deriving DecidableEq, Repr

/-- The level of a source (R162). -/
inductive Level where
  | high
  | low
  deriving DecidableEq, Repr

/-- The action of a shed rule (R165). -/
inductive ShedAction where
  | demote
  | shallow
  | pause
  deriving DecidableEq, Repr

/-- The states of a shed rule (R168). -/
inductive RuleState where
  | disarmed
  | armed
  | tripped
  deriving DecidableEq, Repr

/-- The quiesce state of the array port (R123). -/
inductive Quiesce where
  | opened
  | quiescing
  | quiesced
  deriving DecidableEq, Repr

/-- The result an SA carries (R24, R33, chapter 10.5). -/
inductive StreamResult where
  | accepted
  | notAdmitted
  | stationLimit
  | noHandle
  | noSuchClip
  | noProxy
  | noBuffer
  | badField
  | badFrame
  | notOwner
  | notReady
  | closing
  | faulted
  deriving DecidableEq, Repr

/-- The reason an SN carries (R51). -/
inductive Reason where
  | opened
  | negotiated
  | primed
  | playing
  | pausedStation
  | pausedShed
  | starved
  | ended
  | closed
  | reset
  | withdrawn
  | clipWithdrawn
  | renditionWithdrawn
  | demoted
  | promoted
  | shallowed
  | restored
  deriving DecidableEq, Repr

/-- The cause an FG carries (R145). -/
inductive GapCause where
  | late
  | noCredit
  | readFailed
  deriving DecidableEq, Repr

/-- The verbs of management (R184). -/
inductive ManageVerb where
  | stageClip
  | unstageClip
  | stageStation
  | unstageStation
  | stagePolicy
  | stageRule
  | discardStage
  | commit
  | clearShed
  | readClip
  | readStream
  | readSpanCounts
  | readFetchCounts
  | resetStreams
  | resetPart
  deriving DecidableEq, Repr

/-- The result an MA carries (R183). -/
inductive ManageResult where
  | ok
  | busy
  | badField
  | shortExtents
  | full
  | noSuch
  | shedPending
  | stillMatching
  | ceiling
  deriving DecidableEq, Repr

/-- Where READ CLIP found an entry (R196). -/
inductive FoundIn where
  | active
  | staged
  | retired
  deriving DecidableEq, Repr

end Sys2Proof
end

