-- ==== Sys2Proof/Config.lean ====
section
/-! DEFINITION. The sizes and full-reset values that the manual fixes for the part, and the one order it leaves open. -/

namespace Sys2Proof.Config

/-- Pages of buffer memory (R74). -/
def bufferPages : Nat := 32768
/-- Bytes of one block of storage (chapter 0, Conventions). -/
def blockBytes : Nat := 4096
/-- Blocks of one page (chapter 0, Conventions). -/
def pageBlocks : Nat := 256
/-- Entries a bank of the clip map can hold (R1). -/
def maxClips : Nat := 1024
/-- Entries a bank of the station table can hold (R9). -/
def maxStations : Nat := 64
/-- The largest number of local answers running at once (R92). -/
def maxAnswers : Nat := 64
/-- Messages the array transmit queue holds at most (R123). -/
def arrayQueue : Nat := 16
/-- Messages each forwarding queue holds at most (R123, R124). -/
def forwardQueue : Nat := 256
/-- Messages the floor control queue holds at most (R152). -/
def controlQueue : Nat := 256
/-- Notices the MN notice queue holds at most (R199). -/
def noticeQueue : Nat := 32
/-- Largest admission ceiling (R23, R190). -/
def maxCeiling : Nat := 32192
/-- The issue hold after a full reset, in microseconds (R121). -/
def issueHold : Nat := 1000000
/-- Window depth of an OPEN that gives none (R24). -/
def defaultDepth : Nat := 4
/-- Largest window depth (R19). -/
def maxDepth : Nat := 12
/-- Largest body of an MRX message, in bytes (R202). -/
def maxBody : Nat := 8208
/-- Largest Ethernet frame a port takes, in bytes (R202). -/
def maxFrame : Nat := 9216

/-- What a byte of buffer memory that nothing has written reads as: DESIGN CHOICE, notes/assumptions/3.md. -/
def unwrittenByte : Byte := 0

/-- The order in which the shed controller receives transitions that one event gives rise to, left open by R163
("in either order"): a free value, one for each such event (notes/assumptions/8.md). -/
opaque transitionOrder : Nat → Fin 6

end Sys2Proof.Config
end

