-- ==== Sys2Proof/Syntax.lean ====
section
/-! DEFINITION. The commands of the part: one constructor for each row of spec/opcode_table.json. -/

namespace Sys2Proof

/-- The steps of the part. Each carries the time at which it is taken, in microseconds since the last full reset
(R141): in its `Arrival` for a message, as `t` for every other event. The operands of a message are the fields that
its body carries (chapter 10). A message that crosses the part unchanged is given as its whole Ethernet frame. -/
inductive Instr where
  -- Station requests on the floor port (chapter 2).
  | openStream (a : Arrival) (req clip : Word) (choice depth late : Byte)
  | prime (a : Arrival) (req : Word) (handle : Byte) (frame : Word) (stride : Byte)
  | start (a : Arrival) (req : Word) (handle : Byte) (frame : Word) (stride : Byte)
  | play (a : Arrival) (req : Word) (handle : Byte)
  | pause (a : Arrival) (req : Word) (handle : Byte)
  | seek (a : Arrival) (req : Word) (handle : Byte) (frame : Word) (stride : Byte)
  | close (a : Arrival) (req : Word) (handle : Byte)
  | probeReply (a : Arrival) (handle verdict : Byte) (number : Half)
  | creditGrant (a : Arrival) (handle count : Byte)
  | stationBlockRead (t : Nat) (frame : Frame)
  | malformedFrame (t : Nat) (port : Port) (frame : Frame)
  -- Messages taken on the array port (chapters 5 and 6).
  | blockDataForPart (a : Arrival) (tag : Half) (offset count : Byte) (final : Bool) (total : Half) (check : Word)
      (data : List Byte)
  | deferForPart (a : Arrival) (tag : Half) (delay : Word)
  | forwardedArrayMessage (t : Nat) (frame : Frame)
  | rewriteNotice (t : Nat) (frame : Frame)
  | quiesceRequest (a : Arrival)
  | quiesceEnd (a : Arrival)
  -- Management requests on the array port (chapter 9).
  | stageClip (a : Arrival) (req : Word) (offer : ClipOffer)
  | unstageClip (a : Arrival) (req clip : Word)
  | stageStation (a : Arrival) (req : Word) (station : Half) (shedClass limit : Byte)
  | unstageStation (a : Arrival) (req : Word) (station : Half)
  | stagePolicy (a : Arrival) (req : Word) (offer : PolicyOffer)
  | stageRule (a : Arrival) (req : Word) (offer : RuleOffer)
  | discardStage (a : Arrival) (req : Word)
  | commit (a : Arrival) (req : Word)
  | clearShed (a : Arrival) (req : Word) (rule : Byte)
  | readClip (a : Arrival) (req clip : Word) (bank editionGiven : Byte) (edition : Word)
  | readStream (a : Arrival) (req : Word) (handle : Byte)
  | readSpanCounts (a : Arrival) (req : Word)
  | readFetchCounts (a : Arrival) (req : Word)
  | resetStreams (a : Arrival) (req : Word)
  | resetPart (a : Arrival) (req : Word)
  -- Power, pins, timers and transmissions (chapters 2 to 9).
  | powerOn (t : Nat) (pins : Straps)
  | resetPin (t : Nat) (pins : Straps)
  | probeWindowExpiry (t : Nat) (h : Handle)
  | dueTime (t : Nat) (h : Handle)
  | readTimeout (t : Nat) (tag : TagIndex)
  | notBeforeTimeReached (t : Nat) (span : Nat)
  | issueHoldEnd (t : Nat)
  | commitWalkVisit (t : Nat)
  | commitWalkEnd (t : Nat)
  | arrayTransmissionEnd (t : Nat)
  | floorTransmissionEnd (t : Nat)
  | frameTransmissionEnd (t : Nat)
  | localAnswerBdSent (t : Nat)
  | linkPartnerFlowControl (t : Nat) (port : Port) (holding : Bool)
  | arrayLinkDown (t : Nat)
  | arrayLinkUp (t : Nat)
  | floorLinkDown (t : Nat)
  | floorLinkUp (t : Nat)
  | drainEnd (t : Nat)
  | waitingQgJoins (t : Nat)
  | waitingCommitAnswerJoins (t : Nat)
  | mnHandover (t : Nat)
  | allocationQueueServing (t : Nat)
  | unknownStationVerb (a : Arrival) (req : Word) (verb handle : Byte)
  | unknownManageVerb (a : Arrival) (req : Word) (verb : Byte)
  deriving DecidableEq, Repr

end Sys2Proof
end

