-- ==== Sys2Proof/WellFormed.lean ====
section
/-! DEFINITION. Which commands can stand for something that happens at the part: the checks that do not depend on its
state. The machine is total and takes any command; these are the terms that a message or event can spell. -/

namespace Sys2Proof

/-- A body is at most 8,208 bytes (R203) and holds the fields that the command's operands are read from. -/
def Arrival.holds (a : Arrival) (fields : Nat) : Bool :=
  decide (fields ≤ a.len) && decide (a.len ≤ Config.maxBody)

/-- The source of a message on the floor port is a station, 1 to 65,534 (R203). -/
def Arrival.fromStation (a : Arrival) : Bool :=
  decide (a.src ≠ 0) && decide (a.src ≠ 0xFFFF)

/-- A frame holds the Ethernet and MRX headers and is at most 9,216 bytes long (R202, R203), counted without the frame
check sequence, a DESIGN CHOICE (notes/assumptions/31.md). -/
def Frame.sized (f : Frame) : Bool :=
  decide (22 ≤ f.length) && decide (f.length ≤ Config.maxFrame)

/-- The extents given with a rendition record are as many as its extent count says, where that count can be staged. -/
def RenditionOffer.wf (r : RenditionOffer) : Bool :=
  r.extentCount == 0 || decide (64 < r.extentCount.toNat) || r.extents.length == r.extentCount.toNat

/-- Both rendition records of an offered clip entry carry the extents they count. -/
def ClipOffer.wf (c : ClipOffer) : Bool :=
  c.primary.wf && match c.proxy with
    | none => true
    | some r => r.wf

/-- The step codes and operand widths of a station request: a readable request number and verb (R208). -/
def Arrival.stationRequest (a : Arrival) : Bool := a.fromStation && a.holds 8

/-- A management request with a readable request number and verb (R209). -/
def Arrival.manageRequest (a : Arrival) : Bool := a.holds 8

/-- The command is one that a message or an event at the part can spell. -/
def Instr.wf : Instr → Bool
  | .openStream a .. => a.stationRequest
  | .prime a .. => a.stationRequest
  | .start a .. => a.stationRequest
  | .play a .. => a.stationRequest
  | .pause a .. => a.stationRequest
  | .seek a .. => a.stationRequest
  | .close a .. => a.stationRequest
  | .probeReply a .. => a.fromStation && a.holds 0
  | .creditGrant a .. => a.fromStation && a.holds 0
  | .stationBlockRead _ f => f.sized
  | .malformedFrame _ _ f => decide (f.length ≤ Config.maxFrame)
  | .blockDataForPart a _ _ _ _ _ _ data => a.holds 0 && data.length == a.len - 12
  | .deferForPart a .. => a.holds 0
  | .forwardedArrayMessage _ f => f.sized
  | .rewriteNotice _ f => f.sized
  | .quiesceRequest a => a.holds 0
  | .quiesceEnd a => a.holds 0
  | .stageClip a _ offer => a.manageRequest && offer.wf
  | .unstageClip a .. => a.manageRequest
  | .stageStation a .. => a.manageRequest
  | .unstageStation a .. => a.manageRequest
  | .stagePolicy a .. => a.manageRequest
  | .stageRule a .. => a.manageRequest
  | .discardStage a .. => a.manageRequest
  | .commit a .. => a.manageRequest
  | .clearShed a .. => a.manageRequest
  | .readClip a .. => a.manageRequest
  | .readStream a .. => a.manageRequest
  | .readSpanCounts a .. => a.manageRequest
  | .readFetchCounts a .. => a.manageRequest
  | .resetStreams a .. => a.manageRequest
  | .resetPart a .. => a.manageRequest
  | .powerOn _ _ => true
  | .resetPin _ _ => true
  | .probeWindowExpiry _ _ => true
  | .dueTime _ _ => true
  | .readTimeout _ _ => true
  | .notBeforeTimeReached _ i => decide (i < Config.bufferPages)
  | .issueHoldEnd _ => true
  | .commitWalkVisit _ => true
  | .commitWalkEnd _ => true
  | .arrayTransmissionEnd _ => true
  | .floorTransmissionEnd _ => true
  | .frameTransmissionEnd _ => true
  | .localAnswerBdSent _ => true
  | .linkPartnerFlowControl _ _ _ => true
  | .arrayLinkDown _ => true
  | .arrayLinkUp _ => true
  | .floorLinkDown _ => true
  | .floorLinkUp _ => true
  | .drainEnd _ => true
  | .waitingQgJoins _ => true
  | .waitingCommitAnswerJoins _ => true
  | .mnHandover _ => true
  | .allocationQueueServing _ => true
  | .unknownStationVerb a _ verb _ => a.stationRequest && (verb == 0 || decide (7 < verb.toNat))
  | .unknownManageVerb a _ verb => a.manageRequest && (verb == 0 || decide (15 < verb.toNat))

end Sys2Proof
end

