-- ==== Sys2Proof/Decode.lean ====
section
/-! DEFINITION. The decoding that the host asks for: no row of spec/opcode_table.json gives its command any bits (the
commands are messages and events, not words), so no word spells a command. How an arriving Ethernet frame spells one is
`Sys2Proof.Machine.State.commandOf` in Sys2Proof/Machine/Formats.lean. -/

namespace Sys2Proof

/-- The command that a word spells by the table's bits: none, since the table gives none. -/
def decodeTableWord (_nbits _w : Nat) : Option Instr := none

end Sys2Proof
end

