-- ==== Sys2Proof/Machine/State.lean ====
section
/-! DEFINITION. The state of the part, block by block (chapter 0), as plain data; the reasons a step can stop; and
the state right after a full reset. -/

namespace Sys2Proof.Machine

open Sys2Proof

/-! ## Table store (chapter 1, R165, R190) -/

/-- An extent: a run of whole pages on the rendition's volume (R5). -/
structure Extent where
  start : Nat
  pages : Nat
  deriving DecidableEq, Repr

/-- A rendition record (R4); `pageBound` is computed at staging (R6). -/
structure RenditionRecord where
  volume      : Nat
  frameBlocks : Nat
  frameCount  : Nat
  extents     : List Extent
  pageBound   : Nat
  deriving DecidableEq, Repr

/-- A clip map entry (R1); a newly staged entry has no edition. -/
structure Clip where
  clipId        : Word
  edition       : Option Word
  numerator     : Nat
  denominator   : Nat
  firstTimecode : Nat
  primary       : RenditionRecord
  proxy         : Option RenditionRecord
  deriving DecidableEq, Repr

/-- A station table entry (R9). -/
structure StationEntry where
  station   : Half
  shedClass : Nat
  limit     : Nat
  deriving DecidableEq, Repr

/-- The policy record (R190), times in milliseconds. -/
structure Policy where
  retryLimit  : Nat
  readTimeout : Nat
  probeWindow : Nat
  guardTime   : Nat
  starveLimit : Nat
  checkMode   : CheckMode
  ceiling     : Nat
  deriving DecidableEq, Repr

/-- A shed rule record (R165); bit c of `classes` stands for shed class c. -/
structure ShedRule where
  enable  : Bool
  source  : Source
  level   : Level
  action  : ShedAction
  classes : Byte
  deriving DecidableEq, Repr

/-- The settings of a comparator (R165). -/
structure Settings where
  high     : Nat
  low      : Nat
  debounce : Nat
  deriving DecidableEq, Repr

/-- The shed settings of one bank (R165). -/
structure ShedSettings where
  rules : Vector ShedRule 4
  lat1  : Settings
  lat2  : Settings
  tags  : Settings
  deriving DecidableEq, Repr

/-- One bank of every loaded table; clips in rising order of clip ID, stations in rising order of number. -/
structure Bank where
  clips    : List Clip
  stations : List StationEntry
  policy   : Policy
  shed     : ShedSettings
  deriving DecidableEq, Repr

/-- The commit walk state (R192, R193): while walking, the next handle, and the requester to be answered. -/
inductive Walk where
  | idle
  | walking (next : Nat) (asker : Half) (req : Word)
  deriving DecidableEq, Repr

/-- The table store (R1 to R18). -/
structure TableStore where
  active     : Bank
  staged     : Bank
  retired    : List Clip
  generation : Word
  walk       : Walk
  deriving DecidableEq, Repr

/-! ## Stream controller (R19) -/

/-- A stream record (R19). `probeExpiry` is the stream's probe window timer; `withdrawn` says, in CLOSING, that the
commit walk began the close, so that its SN carries WITHDRAWN (R43); `demoted` is the demoted flag that the shed
controller holds for the handle (R168, R175). -/
structure Stream where
  state         : StreamState
  owner         : Option Half
  binding       : Option (Word × Word)
  rendition     : Rendition
  choice        : Choice
  depth         : Nat
  effDepth      : Nat
  position      : Nat
  stride        : Int
  late          : LatePolicy
  autoplay      : Bool
  credit        : Nat
  reservation   : Nat
  marks         : BitVec 4
  pauseReason   : Option PauseReason
  gaps          : Nat
  delivered     : Word
  gapped        : Word
  probe         : Option Half
  probeExpiry   : Option Nat
  noticeLost    : Bool
  withdrawn     : Bool
  demoted       : Bool
  deriving DecidableEq, Repr

/-! ## Window manager (R55, R56) -/

/-- A volume page (R74). -/
structure Key where
  volume : Nat
  page   : Nat
  deriving DecidableEq, Repr

/-- One entry of a frame's page list: the page, the block range of it that belongs to the frame (R7), and the span
named, if any (R56). -/
structure PageEntry where
  key   : Key
  first : Nat
  count : Nat
  span  : Option Nat
  deriving DecidableEq, Repr

/-- A frame slot (R56). `serial` is the model's name for it (notes/assumptions/20.md). -/
structure Slot where
  serial      : Nat
  frame       : Nat
  rendition   : Rendition
  pages       : List PageEntry
  deadline    : Nat
  state       : SlotState
  checkFailed : Bool
  stale       : Bool
  deriving DecidableEq, Repr

/-- A stream's window, sending set and cursor (R55); a cursor of `none` is exhausted. -/
structure Window where
  slots   : List Slot
  sending : List Slot
  cursor  : Option Nat
  deriving DecidableEq, Repr

/-! ## Span buffer and fetch scheduler (R74, R98) -/

/-- A fetch record (R98). Its span is the span it stands in; its tag's generation is the pool's. -/
structure Fetch where
  state       : FetchState
  deadline    : Nat
  sequence    : Long
  failures    : Nat
  notBefore   : Option Nat
  tag         : Option TagIndex
  base        : Nat
  received    : Nat
  check       : Word
  issueTime   : Option Nat
  expiry      : Option Nat
  firstIssue  : Option Nat
  report      : Bool
  waiting     : Bool
  deriving DecidableEq, Repr

/-- The states of a span other than FREE; a FILLING span, and no other, has a fetch record (R75, R76). -/
inductive SpanState where
  | filling (fetch : Fetch)
  | valid
  | stale
  deriving DecidableEq, Repr

/-- One entry of a span's referrer list (R74). -/
structure Referrer where
  handle   : Handle
  slot     : Nat
  deadline : Nat
  sending  : Bool
  deriving DecidableEq, Repr

/-- The record of a span that is not FREE (R74). The reference count is the length of `refs`. -/
structure Span where
  key         : Key
  state       : SpanState
  refs        : List Referrer
  pins        : Nat
  refill      : Bool
  checkFailed : Bool
  deriving DecidableEq, Repr

/-- A key of the allocation queue with the slots that wait on it (R81). -/
structure WaitingKey where
  key   : Key
  slots : List Referrer
  deriving DecidableEq, Repr

/-- A BD of a local answer as it is handed to the floor transmitter (R93). -/
structure AnswerData where
  dst    : Half
  src    : Half
  tag    : Half
  offset : Nat
  count  : Nat
  final  : Bool
  stale  : Bool
  total  : Nat
  check  : Word
  data   : List Byte
  deriving DecidableEq, Repr

/-- A running local answer (R92, R93): `handed` blocks have been handed over so far, and `ready` is the BD handed
over that has not yet started. -/
structure LocalAnswer where
  serial  : Nat
  station : Half
  target  : Half
  tag     : Half
  span    : Nat
  offset  : Nat
  count   : Nat
  handed  : Nat
  ready   : Option AnswerData
  deriving DecidableEq, Repr

/-- The span buffer (R74 to R97). `spans` lists the spans that are not FREE, by rising page index. The free list is
the spans from `fresh` up, which have been FREE since the full reset, followed by `freed` (R78). The directory is
computed from `spans` (R77). `memory` is the data of the buffer pages. -/
structure SpanBuffer where
  spans      : List (Nat × Span)
  fresh      : Nat
  freed      : List Nat
  resting    : List Nat
  waiting    : List WaitingKey
  answers    : List LocalAnswer
  nextAnswer : Nat
  memory     : List Host.Cell
  deriving DecidableEq, Repr

/-- The running counts of the fetch scheduler (R120). -/
structure FetchCounts where
  issues         : Word
  continuations  : Word
  completions    : Word
  failedAttempts : Word
  timeouts       : Word
  defers         : Word
  failures       : Word
  staleReplies   : Word
  mismatches     : Word
  refillDiscards : Word
  deriving DecidableEq, Repr

/-- The fetch scheduler (R98). The records stand in their spans; the fetch queue and the deferred set are computed
from them (R101, R104). `continuations` names the waiting records by span, oldest first. -/
structure FetchScheduler where
  generations   : Vector (BitVec 4) 512
  continuations : List Nat
  enqueue       : Long
  holdUntil     : Option Nat
  counts        : FetchCounts
  deriving DecidableEq, Repr

/-! ## Messages the part sends (R204, chapter 10) -/

/-- The control messages for stations (R158). -/
inductive FloorControl where
  | sa (dst : Half) (req : Word) (handle : Byte) (result : StreamResult)
  | sn (dst : Half) (handle : Handle) (state : StreamState) (reason : Reason) (rendition : Rendition)
      (noticeLost : Bool) (position : Nat)
  | pb (dst : Half) (handle : Handle) (number : Half) (rate : Nat)
  | fg (dst : Half) (handle : Handle) (cause : GapCause) (frame : Nat)
  deriving DecidableEq, Repr

/-- An FD segment (R154). -/
structure FrameSegment where
  dst         : Half
  handle      : Handle
  proxy       : Bool
  last        : Bool
  stale       : Bool
  checkFailed : Bool
  index       : Nat
  count       : Nat
  frame       : Nat
  timecode    : Nat
  payload     : List Byte
  deriving DecidableEq, Repr

/-- A delivery record (R153). -/
structure Delivery where
  handle    : Handle
  dst       : Half
  slot      : Nat
  frame     : Nat
  timecode  : Nat
  proxy     : Bool
  segments  : Nat
  next      : Nat
  abandoned : Bool
  deriving DecidableEq, Repr

/-- A message in transmission on the floor port. A segment brings its delivery record, whose abandoned flag decides
what its end means (R159). -/
inductive FloorMessage where
  | control (m : FloorControl)
  | segment (d : Delivery) (fd : FrameSegment)
  | forwarded (frame : Frame)
  | answer (serial : Nat) (bd : AnswerData)
  deriving DecidableEq, Repr

/-- A source of block data (R157). -/
inductive TurnSource where
  | forwarding
  | answer (serial : Nat)
  deriving DecidableEq, Repr

/-- The alternation indicator of the floor transmitter (R156). -/
inductive FloorTurn where
  | frame
  | block
  deriving DecidableEq, Repr

/-- The notices of the MN queue (R199). -/
inductive Notice where
  | ready
  | shedTripped (rule : RuleNumber) (source : Source)
  | checkFailed (key : Key)
  | fetchFailed (key : Key)
  deriving DecidableEq, Repr

/-- What READ STREAM gives of a live record (R197): the record, the slot counts, the sum and the ceiling. -/
structure StreamReport where
  handle  : Handle
  stream  : Stream
  pending : Nat
  ready   : Nat
  failed  : Nat
  sending : Nat
  sum     : Nat
  ceiling : Nat
  deriving DecidableEq, Repr

/-- The six counts of R95. -/
structure SpanCounts where
  free       : Nat
  filling    : Nat
  referenced : Nat
  resting    : Nat
  stale      : Nat
  waiting    : Nat
  deriving DecidableEq, Repr

/-- The counts of R120. -/
structure FetchReport where
  queued   : Nat
  issued   : Nat
  deferred : Nat
  counts   : FetchCounts
  deriving DecidableEq, Repr

/-- The body of an MA (R183, R196 to R198). -/
inductive AnswerBody where
  | empty
  | clip (found : FoundIn) (entry : Clip)
  | closedStream
  | stream (report : StreamReport)
  | spanCounts (counts : SpanCounts)
  | fetchCounts (report : FetchReport)
  deriving DecidableEq, Repr

/-- An MA (R183). `verb` is the code of its MQ. -/
structure ManageAnswer where
  dst        : Half
  req        : Word
  verb       : Byte
  result     : ManageResult
  walking    : Bool
  generation : Word
  body       : AnswerBody
  deriving DecidableEq, Repr

/-- The control messages for the array (R123). -/
inductive ArrayControl where
  | ma (answer : ManageAnswer)
  | mn (notice : Notice) (overflow : Bool)
  | qg (dst : Half)
  deriving DecidableEq, Repr

/-- A BR of the part's own (R103, R110). -/
structure OwnRead where
  tag    : Nat
  volume : Nat
  count  : Nat
  start  : Nat
  deriving DecidableEq, Repr

/-- A message in transmission on the array port (R123). -/
inductive ArrayMessage where
  | control (m : ArrayControl)
  | read (br : OwnRead)
  | forwarded (frame : Frame)
  deriving DecidableEq, Repr

/-- The alternation indicator of the array transmitter (R132). -/
inductive ArrayTurn where
  | own
  | forwarded
  deriving DecidableEq, Repr

/-! ## Ports, delivery unit, pressure monitor, shed controller, management responder -/

/-- The array port (R123). `grantWaiting` is the QG waiting in the port for a place; `asker` is the source of the QR
being answered (R135); `partnerHolds` is the link partner's flow control and `onLink` the messages that wait on the
link while the port holds it (R129). -/
structure ArrayPort where
  linkUp       : Bool
  quiesce      : Quiesce
  control      : List ArrayControl
  toFloor      : List Frame
  turn         : ArrayTurn
  sending      : Option ArrayMessage
  grantWaiting : Option Half
  asker        : Option Half
  partnerHolds : Bool
  onLink       : List Instr
  deriving DecidableEq, Repr

/-- The floor port (R124). -/
structure FloorPort where
  linkUp       : Bool
  toArray      : List Frame
  partnerHolds : Bool
  onLink       : List Instr
  deriving DecidableEq, Repr

/-- The cadence state of a stream (R141). -/
structure Cadence where
  anchor   : Nat
  index    : Nat
  nextDue  : Option Nat
  headWait : Bool
  rate     : Option (Nat × Nat)
  deriving DecidableEq, Repr

/-- The floor transmitter of the cadence and delivery unit (R152). -/
structure FloorTransmitter where
  queue   : List Delivery
  current : Option Delivery
  control : List FloorControl
  turns   : List TurnSource
  turn    : FloorTurn
  sending : Option FloorMessage
  deriving DecidableEq, Repr

/-- A comparator's level and run (R162). -/
structure Comparator where
  level : Level
  run   : Nat
  deriving DecidableEq, Repr

/-- The pressure monitor (R162). The QUIESCED source is computed from the quiesce state (R164). -/
structure PressureMonitor where
  lat1 : Comparator
  lat2 : Comparator
  tags : Comparator
  deriving DecidableEq, Repr

/-- The management responder (R199, R195): the MN notice queue, its overflow mark, and a COMMIT's OK that waits for
a place in the array transmit queue. -/
structure Responder where
  notices  : List Notice
  overflow : Bool
  waiting  : Option ManageAnswer
  deriving DecidableEq, Repr

/-- The state of the part. `now` is its time (R141); `pins` are the levels at the strap pins and `straps` the values
read from them at the last full reset (R140); `nextSlot` and `choices` are the model's own counters
(notes/assumptions/20.md, 8.md); `pending` is the queue of commands waiting to be taken. -/
structure State where
  now        : Nat
  pins       : Straps
  straps     : Straps
  tables     : TableStore
  streams    : Vector Stream 128
  probes     : Half
  windows    : Vector Window 128
  nextSlot   : Nat
  buffer     : SpanBuffer
  fetch      : FetchScheduler
  array      : ArrayPort
  floor      : FloorPort
  cadences   : Vector Cadence 128
  tx         : FloorTransmitter
  pressure   : PressureMonitor
  rules      : Vector RuleState 4
  responder  : Responder
  choices    : Nat
  pending    : List Instr
  deriving DecidableEq, Repr

/-- Why a step stops with a fault. The manual gives every step of the part an effect, so there is no such reason:
the type is empty, and no step of the model faults (safe). -/
inductive Fault where
  deriving DecidableEq, Repr

/-- Why a step is refused. -/
inductive Refusal where
  /-- Raised only by an arm of `exec` for a command that has no meaning yet (safe); no arm raises it. -/
  | notModelled (mnemonic : String)
  deriving DecidableEq, Repr

/-! ## The state after a full reset -/

/-- The policy record after a full reset (R190). -/
def Policy.reset : Policy :=
  { retryLimit := 6, readTimeout := 250, probeWindow := 5, guardTime := 4, starveLimit := 24, checkMode := .refetch,
    ceiling := Config.maxCeiling }

/-- A shed rule record after a full reset (R165). -/
def ShedRule.reset : ShedRule :=
  { enable := false, source := .lat1, level := .high, action := .demote, classes := 0 }

/-- The shed settings after a full reset (R165). -/
def ShedSettings.reset : ShedSettings :=
  { rules := Vector.replicate 4 ShedRule.reset
    lat1 := { high := 20000, low := 10000, debounce := 8 }
    lat2 := { high := 60000, low := 30000, debounce := 8 }
    tags := { high := 480, low := 384, debounce := 8 } }

/-- A bank after a full reset (R18, R165, R190). -/
def Bank.reset : Bank :=
  { clips := [], stations := [], policy := Policy.reset, shed := ShedSettings.reset }

/-- The table store after a full reset (R18). -/
def TableStore.reset : TableStore :=
  { active := Bank.reset, staged := Bank.reset, retired := [], generation := 0, walk := .idle }

/-- A stream record after a full reset (R20). The fields from which no rule reads in CLOSED have the values of
notes/assumptions/5.md. -/
def Stream.reset : Stream :=
  { state := .closed, owner := none, binding := none, rendition := .primary, choice := .primary, depth := 4,
    effDepth := 4, position := 0, stride := 1, late := .skip, autoplay := false, credit := 0, reservation := 0,
    marks := 0, pauseReason := none, gaps := 0, delivered := 0, gapped := 0, probe := none, probeExpiry := none,
    noticeLost := false, withdrawn := false, demoted := false }

/-- A window after a full reset (R55). -/
def Window.empty : Window := { slots := [], sending := [], cursor := none }

/-- A cadence after a full reset (R141). -/
def Cadence.reset : Cadence := { anchor := 0, index := 0, nextDue := none, headWait := false, rate := none }

/-- The span buffer after a full reset (R96). -/
def SpanBuffer.reset : SpanBuffer :=
  { spans := [], fresh := 0, freed := [], resting := [], waiting := [], answers := [], nextAnswer := 0,
    memory := [] }

/-- The running counts after a full reset (R121). -/
def FetchCounts.zero : FetchCounts :=
  { issues := 0, continuations := 0, completions := 0, failedAttempts := 0, timeouts := 0, defers := 0,
    failures := 0, staleReplies := 0, mismatches := 0, refillDiscards := 0 }

/-- The fetch scheduler after a full reset, with the issue hold running (R121). -/
def FetchScheduler.reset : FetchScheduler :=
  { generations := Vector.replicate 512 0, continuations := [], enqueue := 0, holdUntil := some Config.issueHold,
    counts := FetchCounts.zero }

/-- The array port after a full reset (R123). -/
def ArrayPort.reset : ArrayPort :=
  { linkUp := false, quiesce := .opened, control := [], toFloor := [], turn := .own, sending := none,
    grantWaiting := none, asker := none, partnerHolds := false, onLink := [] }

/-- The floor port after a full reset (R124). -/
def FloorPort.reset : FloorPort :=
  { linkUp := false, toArray := [], partnerHolds := false, onLink := [] }

/-- The floor transmitter after a full reset (R152). -/
def FloorTransmitter.reset : FloorTransmitter :=
  { queue := [], current := none, control := [], turns := [], turn := .frame, sending := none }

/-- A comparator after a full reset (R162). -/
def Comparator.reset : Comparator := { level := .low, run := 0 }

/-- The pressure monitor after a full reset (R182). -/
def PressureMonitor.reset : PressureMonitor :=
  { lat1 := Comparator.reset, lat2 := Comparator.reset, tags := Comparator.reset }

/-- The management responder after a full reset: READY is the only notice (R201). -/
def Responder.reset : Responder := { notices := [.ready], overflow := false, waiting := none }

/-- The state after a full reset that has read the levels `pins` at the strap pins (R201, R140). -/
def State.resetWith (pins : Straps) : State :=
  { now := 0
    pins := pins
    straps := pins
    tables := TableStore.reset
    streams := Vector.replicate 128 Stream.reset
    probes := 0
    windows := Vector.replicate 128 Window.empty
    nextSlot := 0
    buffer := SpanBuffer.reset
    fetch := FetchScheduler.reset
    array := ArrayPort.reset
    floor := FloorPort.reset
    cadences := Vector.replicate 128 Cadence.reset
    tx := FloorTransmitter.reset
    pressure := PressureMonitor.reset
    rules := Vector.replicate 4 .disarmed
    responder := Responder.reset
    choices := 0
    pending := [] }

/-- The strap levels of `State.reset`: DESIGN CHOICE, notes/assumptions/4.md. -/
def Straps.reset : Straps := { station := 1, etherType := 0x0600 }

/-- The state right after a full reset (R201). -/
def State.reset : State := State.resetWith Straps.reset

end Sys2Proof.Machine
end

