-- ==== Sys2Proof/Machine/Ops.lean ====
section
/-! DEFINITION. The named operations over buffer memory and over the records of the part, and the placing of messages
in its queues. -/

namespace Sys2Proof.Machine

open Sys2Proof

/-! ## Buffer memory -/

/-- The byte at an address of buffer memory. -/
def Memory.read (m : List Host.Cell) (a : Nat) : Byte :=
  match m.find? (fun c => c.1 == a) with
  | some c => c.2
  | none => Config.unwrittenByte

/-- The cells that bytes written from address `a` on leave, in canonical form. -/
def Memory.cells (a : Nat) : List Byte → List Host.Cell
  | [] => []
  | b :: bs => if b = Config.unwrittenByte then Memory.cells (a + 1) bs else (a, b) :: Memory.cells (a + 1) bs

/-- Writes consecutive bytes from address `a` on. -/
def Memory.write (m : List Host.Cell) (a : Nat) (bs : List Byte) : List Host.Cell :=
  m.filter (fun c => decide (c.1 < a)) ++ Memory.cells a bs
    ++ m.filter (fun c => decide (a + bs.length ≤ c.1))

/-- `n` consecutive bytes from address `a` on. -/
def Memory.readBytes (m : List Host.Cell) (a n : Nat) : List Byte :=
  (List.range n).map (fun i => Memory.read m (a + i))

/-- The canonical form: addresses strictly rising, and no cell equal to what an unlisted address reads as. -/
abbrev Memory.wf (m : List Host.Cell) : Prop :=
  m.Pairwise (fun x y => x.1 < y.1) ∧ ∀ c ∈ m, c.2 ≠ Config.unwrittenByte

/-- The address of a block of a buffer page: page index, then block offset (R74, R85). -/
def blockAddress (span offset : Nat) : Nat :=
  (span * Config.pageBlocks + offset) * Config.blockBytes

/-- The 4,096 bytes of a block of a buffer page. -/
def State.block (s : State) (span offset : Nat) : List Byte :=
  Memory.readBytes s.buffer.memory (blockAddress span offset) Config.blockBytes

/-! ## Check words (R205) -/

/-- One bit of the reflected CRC-32. -/
def crcBit (c : Word) : Word :=
  if c.getLsbD 0 then (c >>> 1) ^^^ 0xEDB88320#32 else c >>> 1

/-- One byte, least significant bit first. -/
def crcByte (c : Word) (b : Byte) : Word :=
  crcBit (crcBit (crcBit (crcBit (crcBit (crcBit (crcBit (crcBit (c ^^^ b.setWidth 32))))))))

/-- Extends a check word over further bytes; a check word of 0 is the cleared one. -/
def extendCheck (check : Word) (bs : List Byte) : Word := ~~~ (bs.foldl crcByte (~~~ check))

/-! ## Time -/

/-- The part's time at an event: it never runs backward (notes/assumptions/1.md). -/
def State.stamp (s : State) (t : Nat) : State := { s with now := max s.now t }

/-! ## Tables kept by number -/

/-- The entry of a number in a table sorted by number. -/
def Keyed.get {α : Type} (t : List (Nat × α)) (k : Nat) : Option α :=
  match t.find? (fun e => e.1 == k) with
  | some e => some e.2
  | none => none

/-- Sets the entry of a number, keeping the table sorted. -/
def Keyed.put {α : Type} (t : List (Nat × α)) (k : Nat) (v : α) : List (Nat × α) :=
  match t with
  | [] => [(k, v)]
  | e :: r => if k < e.1 then (k, v) :: e :: r else if k = e.1 then (k, v) :: r else e :: Keyed.put r k v

/-- Removes the entry of a number. -/
def Keyed.drop {α : Type} (t : List (Nat × α)) (k : Nat) : List (Nat × α) :=
  t.filter (fun e => e.1 != k)

/-! ## Records by handle -/

/-- The record of a stream. -/
def State.stream (s : State) (h : Handle) : Stream := s.streams[h]

/-- Replaces the record of a stream. -/
def State.setStream (s : State) (h : Handle) (r : Stream) : State := { s with streams := s.streams.set h.1 r h.2 }

/-- The window of a stream. -/
def State.window (s : State) (h : Handle) : Window := s.windows[h]

/-- Replaces the window of a stream. -/
def State.setWindow (s : State) (h : Handle) (w : Window) : State := { s with windows := s.windows.set h.1 w h.2 }

/-- The cadence of a stream. -/
def State.cadence (s : State) (h : Handle) : Cadence := s.cadences[h]

/-- Replaces the cadence of a stream. -/
def State.setCadence (s : State) (h : Handle) (c : Cadence) : State :=
  { s with cadences := s.cadences.set h.1 c h.2 }

/-- All handles, 0 to 127, in handle order. -/
def handles : List Handle := List.finRange 128

/-- The handle that a handle byte names, if it is 0 to 127. -/
def handleOf (b : Byte) : Option Handle :=
  if h : b.toNat < 128 then some ⟨b.toNat, h⟩ else none

/-- A stream is live in every state other than CLOSED (R19). -/
def Stream.live (r : Stream) : Bool := r.state != .closed

/-- The states in which a stream holds a window that is topped up (R60). -/
def Stream.windowed (r : Stream) : Bool :=
  r.state == .priming || r.state == .primed || r.state == .playing || r.state == .paused

/-- The number of live streams of a station (R19). -/
def State.liveCount (s : State) (station : Half) : Nat :=
  (s.streams.toList.filter (fun r => r.live && r.owner == some station)).length

/-- The reservation sum (R19). -/
def State.reservationSum (s : State) : Nat := (s.streams.toList.map Stream.reservation).sum

/-- The fit test for a stream's new reservation (R23): the sum less the present reservation plus the new one is at
most the active ceiling. -/
def State.fits (s : State) (present wanted : Nat) : Bool :=
  decide (s.reservationSum - present + wanted ≤ s.tables.active.policy.ceiling)

/-! ## Messages for stations (R158, R51) -/

/-- Whether the floor control queue accepts a message. -/
def State.controlRoom (s : State) : Bool := decide (s.tx.control.length < Config.controlQueue)

/-- Sets the notice-lost flag of a live stream, one of whose control messages has been dropped (R158). -/
def State.loseNotice (s : State) (h : Handle) : State :=
  if (s.stream h).live then s.setStream h { s.stream h with noticeLost := true } else s

/-- Joins a message to the end of the floor control queue. -/
def State.pushControl (s : State) (m : FloorControl) : State :=
  { s with tx := { s.tx with control := s.tx.control ++ [m] } }

/-- Places an SA, PB or FG that concerns the stream given, if any (R158); a message placed while the floor link is
DOWN is discarded and sets no flag (R139). -/
def State.placeControl (s : State) (concerns : Option Handle) (m : FloorControl) : State :=
  if !s.floor.linkUp then s
  else if s.controlRoom then s.pushControl m
  else match concerns with
    | some h => s.loseNotice h
    | none => s

/-- Answers an SQ: the SA goes to the SQ's source and echoes request number and handle byte (R33, R204). -/
def State.answer (s : State) (dst : Half) (req : Word) (handle : Byte) (result : StreamResult) : State :=
  s.placeControl (handleOf handle) (.sa dst req handle result)

/-- Sends an SN about a stream to the station given (R51): it carries the notice-lost flag, which its acceptance
clears and its drop leaves set. -/
def State.notifyTo (s : State) (dst : Half) (h : Handle) (reason : Reason) : State :=
  let r := s.stream h
  if !s.floor.linkUp then s
  else if s.controlRoom then
    (s.setStream h { r with noticeLost := false }).pushControl
      (.sn dst h r.state reason r.rendition r.noticeLost r.position)
  else s.loseNotice h

/-- Sends an SN to the stream's owner (R204). -/
def State.notify (s : State) (h : Handle) (reason : Reason) : State :=
  match (s.stream h).owner with
  | some dst => s.notifyTo dst h reason
  | none => s

/-! ## Messages for the array (R130, R183, R199) -/

/-- Joins a control message to the end of the array transmit queue. -/
def State.pushArray (s : State) (m : ArrayControl) : State :=
  { s with array := { s.array with control := s.array.control ++ [m] } }

/-- Whether the array transmit queue has a place (R123). -/
def State.arrayRoom (s : State) : Bool := decide (s.array.control.length < Config.arrayQueue)

/-- Whether the commit walk runs (R184). -/
def State.walking (s : State) : Bool :=
  match s.tables.walk with
  | .idle => false
  | .walking _ _ _ => true

/-- Answers an MQ with an MA (R183); an MA placed while the array link is DOWN is discarded (R130). -/
def State.answerManage (s : State) (dst : Half) (req : Word) (verb : Byte) (result : ManageResult)
    (body : AnswerBody) : State :=
  if s.array.linkUp then
    s.pushArray (.ma { dst := dst, req := req, verb := verb, result := result, walking := s.walking,
                       generation := s.tables.generation, body := body })
  else s

/-- Hands a notice to the management responder (R199). -/
def State.pushNotice (s : State) (n : Notice) : State :=
  if s.responder.notices.length < Config.noticeQueue then
    { s with responder := { s.responder with notices := s.responder.notices ++ [n] } }
  else { s with responder := { s.responder with overflow := true } }

/-! ## Block data for the floor (R157) -/

/-- A source of block data joins the end of the turn list when it is not in it. -/
def State.joinTurns (s : State) (src : TurnSource) : State :=
  if src ∈ s.tx.turns then s else { s with tx := { s.tx with turns := s.tx.turns ++ [src] } }

/-- Places a message of the array unchanged at the end of the forwarding queue toward the floor, or discards it when
the floor link is DOWN (R125). -/
def State.forwardToFloor (s : State) (f : Frame) : State :=
  if s.floor.linkUp then
    ({ s with array := { s.array with toFloor := s.array.toFloor ++ [f] } }).joinTurns .forwarding
  else s

/-- Places a station's BR unchanged at the end of the forwarding queue toward the array, or discards it when the
array link is DOWN (R127). -/
def State.forwardToArray (s : State) (f : Frame) : State :=
  if s.array.linkUp then { s with floor := { s.floor with toArray := s.floor.toArray ++ [f] } } else s

/-! ## Holds (R129) -/

/-- The floor port holds its link while the forwarding queue toward the array is full. -/
def State.floorHolds (s : State) : Bool := decide (Config.forwardQueue ≤ s.floor.toArray.length)

/-- The array port holds its link while the forwarding queue toward the floor or the array transmit queue is full. -/
def State.arrayHolds (s : State) : Bool :=
  decide (Config.forwardQueue ≤ s.array.toFloor.length) || decide (Config.arrayQueue ≤ s.array.control.length)

/-- The straps give a usable station number and Ethertype (R140). -/
def State.strapsUsable (s : State) : Bool :=
  s.straps.station != 0 && s.straps.station != 0xFFFF && decide (0x0600 ≤ s.straps.etherType.toNat)

end Sys2Proof.Machine
end

