-- ==== Sys2Proof/Machine/Operands.lean ====
section
/-! DEFINITION. How operands are read: the codes of chapter 10.5, big-endian fields, the header of a frame, the bodies
of a station's BR and of an RN (R206), and the records offered for staging. -/

namespace Sys2Proof.Machine

open Sys2Proof

/-! ## Codes (chapter 10.5) -/

/-- The choice of an OPEN. -/
def choiceOf (b : Byte) : Option Choice :=
  if b = 1 then some .primary else if b = 2 then some .proxy else if b = 3 then some .auto else none

/-- The late policy of an OPEN. -/
def lateOf (b : Byte) : Option LatePolicy :=
  if b = 1 then some .skip else if b = 2 then some .stall else none

/-- The check mode of a policy record. -/
def checkModeOf (b : Byte) : Option CheckMode :=
  if b = 1 then some .report else if b = 2 then some .refetch else none

/-- The source of a shed rule. -/
def sourceOf (b : Byte) : Option Source :=
  if b = 1 then some .lat1 else if b = 2 then some .lat2 else if b = 3 then some .tags
  else if b = 4 then some .quiesced else none

/-- The match level of a shed rule. -/
def levelOf (b : Byte) : Option Level :=
  if b = 1 then some .high else if b = 2 then some .low else none

/-- The action of a shed rule. -/
def actionOf (b : Byte) : Option ShedAction :=
  if b = 1 then some .demote else if b = 2 then some .shallow else if b = 3 then some .pause else none

/-- A flag byte that is 0 clear or 1 set. -/
def flagOf (b : Byte) : Option Bool :=
  if b = 0 then some false else if b = 1 then some true else none

/-- The step field of PRIME, START and SEEK, signed (chapter 10.3). -/
def strideOf (b : Byte) : Int := b.toInt

/-- A step lies in −8 to −1 or 1 to 8 (R33). -/
def strideOk (z : Int) : Bool := z != 0 && decide (-8 ≤ z) && decide (z ≤ 8)

/-- The code of a management verb. -/
def verbCode : ManageVerb → Byte
  | .stageClip => 1
  | .unstageClip => 2
  | .stageStation => 3
  | .unstageStation => 4
  | .stagePolicy => 5
  | .stageRule => 6
  | .discardStage => 7
  | .commit => 8
  | .clearShed => 9
  | .readClip => 10
  | .readStream => 11
  | .readSpanCounts => 12
  | .readFetchCounts => 13
  | .resetStreams => 14
  | .resetPart => 15

/-- The rule number of a CLEAR SHED or STAGE RULE, if it is 0 to 3. -/
def ruleOf (b : Byte) : Option RuleNumber :=
  if h : b.toNat < 4 then some ⟨b.toNat, h⟩ else none

/-! ## Fields of a frame, most significant byte first (R202) -/

/-- Byte `i`; bytes past the end read as 0. -/
def byteAt (f : List Byte) (i : Nat) : Byte := f.getD i 0

/-- The 16-bit field at byte `i`. -/
def half16 (f : List Byte) (i : Nat) : Half :=
  BitVec.ofNat 16 ((byteAt f i).toNat * 256 + (byteAt f (i + 1)).toNat)

/-- The 32-bit field at byte `i`. -/
def word32 (f : List Byte) (i : Nat) : Word :=
  BitVec.ofNat 32 ((half16 f i).toNat * 65536 + (half16 f (i + 2)).toNat)

/-- The 64-bit field at byte `i`. -/
def long64 (f : List Byte) (i : Nat) : Long :=
  BitVec.ofNat 64 ((word32 f i).toNat * 4294967296 + (word32 f (i + 4)).toNat)

/-- The Ethertype, after the two Ethernet addresses. -/
def frameType (f : Frame) : Half := half16 f 12
/-- The MRX message kind (chapter 10.1). -/
def frameKind (f : Frame) : Byte := byteAt f 14
/-- The destination station. -/
def frameDst (f : Frame) : Half := half16 f 16
/-- The source station. -/
def frameSrc (f : Frame) : Half := half16 f 18
/-- The body length that the header gives. -/
def frameLen (f : Frame) : Nat := (half16 f 20).toNat
/-- The body: bytes beyond it are not read (R203). -/
def frameBody (f : Frame) : List Byte := (f.drop 22).take (frameLen f)

/-- The eighteen kind codes (chapter 10.1). -/
def kindKnown (k : Byte) : Bool :=
  (decide (1 ≤ k.toNat) && decide (k.toNat ≤ 0x0A)) || (decide (0x10 ≤ k.toNat) && decide (k.toNat ≤ 0x17))

/-- A source station that the port takes a message from (R203, check 4). -/
def State.sourceOk (s : State) (port : Port) (src : Half) : Bool :=
  match port with
  | .floor => src != 0 && src != 0xFFFF && src != s.straps.station
  | .array => src != s.straps.station

/-- The header checks of R203 that the port makes (check 1 is the Ethernet layer's own). That a frame longer than 9,216
bytes (R202) is judged by these checks alone is a DESIGN CHOICE (notes/assumptions/31.md). -/
def State.headerOk (s : State) (port : Port) (f : Frame) : Bool :=
  frameType f == s.straps.etherType && decide (22 ≤ f.length) && decide (frameLen f ≤ Config.maxBody)
    && decide (22 + frameLen f ≤ f.length) && s.sourceOk port (frameSrc f) && kindKnown (frameKind f)

/-- The fields of a station's BR (chapter 10.2). -/
structure BlockRead where
  tag    : Half
  volume : Nat
  start  : Nat
  count  : Nat
  deriving DecidableEq, Repr

/-- A station's BR as it can be offered to the span buffer, or none where its body fails (R206). -/
def blockReadOf (f : Frame) : Option BlockRead :=
  let b := frameBody f
  let count := (half16 b 4).toNat
  let start := (long64 b 8).toNat
  if frameLen f = 16 ∧ 1 ≤ count ∧ count ≤ 256 ∧ start < 2 ^ 40 ∧ start % 256 + count ≤ 256 then
    some { tag := half16 b 0, volume := (byteAt b 2).toNat, start := start, count := count }
  else none

/-- The fields of an RN (chapter 10.2). -/
structure Rewrite where
  volume : Nat
  start  : Nat
  count  : Nat
  deriving DecidableEq, Repr

/-- An RN as the span buffer reads it, or none where its body fails (R206). -/
def rewriteOf (f : Frame) : Option Rewrite :=
  let b := frameBody f
  let count := (word32 b 4).toNat
  let start := (long64 b 8).toNat
  if frameLen f = 16 ∧ 1 ≤ count ∧ count ≤ 16777216 ∧ start + count ≤ 2 ^ 40 then
    some { volume := (byteAt b 0).toNat, start := start, count := count }
  else none

/-! ## Records offered for staging (R11 to R14, R166, R191) -/

/-- The page bound of a frame of `b` blocks (R6). -/
def pageBound (b : Nat) : Nat := if b % 256 = 0 then b / 256 else b / 256 + 2

/-- A rate is acceptable: numerator at least the denominator and at most 120 times it (R2, R11). -/
def rateOk (n d : Nat) : Bool :=
  decide (1 ≤ n) && decide (n ≤ 120000) && decide (1 ≤ d) && decide (d ≤ 1001) && decide (d ≤ n)
    && decide (n ≤ 120 * d)

/-- An extent is well placed on its volume (R5). -/
def Extent.ok (e : Extent) : Bool :=
  e.start % 256 == 0 && decide (1 ≤ e.pages) && decide (e.pages ≤ 65536) && decide (e.start + 256 * e.pages ≤ 2 ^ 40)

/-- Two extents share no page (R5). -/
def Extent.apart (x y : Extent) : Bool :=
  decide (x.start + 256 * x.pages ≤ y.start) || decide (y.start + 256 * y.pages ≤ x.start)

/-- No two extents of a list share a page. -/
def extentsApart : List Extent → Bool
  | [] => true
  | e :: r => r.all (fun x => e.apart x) && extentsApart r

/-- Blocks that a rendition's extents hold (R12). -/
def RenditionRecord.blocksHeld (x : RenditionRecord) : Nat := 256 * (x.extents.map Extent.pages).sum

/-- The extent-sum check of R12 on one rendition. -/
def RenditionRecord.extentsSuffice (x : RenditionRecord) : Bool :=
  decide (x.frameCount * x.frameBlocks ≤ x.blocksHeld)

/-- Bytes of a rendition record with `n` extents (R209). -/
def recordBytes (n : Nat) : Nat := 12 + 12 * n

/-- The ranges of a comparator's settings (R165): LAT1 and LAT2, or TAGS. -/
def Settings.ok (x : Settings) (src : Source) : Bool :=
  decide (x.low < x.high) && decide (1 ≤ x.debounce) && decide (x.debounce ≤ 255)
    && match src with
      | .tags => decide (1 ≤ x.high) && decide (x.high ≤ 512) && decide (x.low ≤ 511)
      | _ => decide (2 ≤ x.high) && decide (x.high ≤ 60000000) && decide (1 ≤ x.low) && decide (x.low ≤ 59999999)

end Sys2Proof.Machine

namespace Sys2Proof

open Sys2Proof.Machine

/-- The extents of an offered rendition record. -/
def RenditionOffer.extentList (r : RenditionOffer) : List Extent :=
  r.extents.map (fun e => { start := e.start.toNat, pages := e.pages.toNat })

/-- The rendition record that an accepted offer leaves in the staged bank, with its page bound (R13). -/
def RenditionOffer.record (r : RenditionOffer) : Machine.RenditionRecord :=
  { volume := r.volume.toNat, frameBlocks := r.frameBlocks.toNat, frameCount := r.frameCount.toNat,
    extents := r.extentList, pageBound := pageBound r.frameBlocks.toNat }

/-- The clip entry that an accepted offer leaves in the staged bank, without an edition (R13). -/
def ClipOffer.entry (c : ClipOffer) : Clip :=
  { clipId := c.clipId, edition := none, numerator := c.numerator.toNat, denominator := c.denominator.toNat,
    firstTimecode := c.firstTimecode.toNat, primary := c.primary.record,
    proxy := match c.proxy with
      | none => none
      | some r => some r.record }

/-- The checks of R11, items 4 to 9, on one offered rendition; `frames` is the primary's frame count for a proxy. -/
def RenditionOffer.fieldsOk (r : RenditionOffer) (frames : Option Nat) : Bool :=
  let x := r.record
  decide (x.volume ≤ 255) && decide (1 ≤ x.frameBlocks) && decide (x.frameBlocks ≤ 16384)
    && decide (1 ≤ x.frameCount) && decide (x.frameCount ≤ 16777216) && (frames == none || frames == some x.frameCount)
    && decide (1 ≤ r.extentCount.toNat) && decide (r.extentCount.toNat ≤ 64)
    && x.extents.all Extent.ok && extentsApart x.extents

/-- The checks of R11 on an offered clip entry. -/
def ClipOffer.fieldsOk (c : ClipOffer) : Bool :=
  c.clipId != 0 && rateOk c.numerator.toNat c.denominator.toNat && decide (c.firstTimecode.toNat ≤ 2147483647)
    && c.primary.fieldsOk none
    && match c.proxy with
      | none => true
      | some r => r.fieldsOk (some c.primary.frameCount.toNat)

/-- The extent-sum check of R12, primary first. -/
def ClipOffer.extentsSuffice (c : ClipOffer) : Bool :=
  c.primary.record.extentsSuffice
    && match c.proxy with
      | none => true
      | some r => r.record.extentsSuffice

/-- An extent count that check 7 of R11 refuses, so that the length is not judged (R209). -/
def RenditionOffer.uncounted (r : RenditionOffer) : Bool :=
  r.extentCount == 0 || decide (64 < r.extentCount.toNat)

/-- The length check of STAGE CLIP (R209). -/
def ClipOffer.lengthOk (c : ClipOffer) (len : Nat) : Bool :=
  match c.proxy with
  | none => c.primary.uncounted || len == 28 + recordBytes c.primary.extentCount.toNat
  | some r => c.primary.uncounted || r.uncounted
      || len == 28 + recordBytes c.primary.extentCount.toNat + recordBytes r.extentCount.toNat

/-- The policy record that STAGE POLICY offers, or none where a setting lies outside its range (R190, R191). -/
def PolicyOffer.record (p : PolicyOffer) : Option Policy :=
  match checkModeOf p.checkMode with
  | none => none
  | some mode =>
    if 1 ≤ p.retryLimit.toNat ∧ p.retryLimit.toNat ≤ 15 ∧ 1 ≤ p.readTimeout.toNat ∧ p.readTimeout.toNat ≤ 1000
        ∧ 1 ≤ p.probeWindow.toNat ∧ p.probeWindow.toNat ≤ 50 ∧ p.guardTime.toNat ≤ 50
        ∧ 1 ≤ p.starveLimit.toNat ∧ p.starveLimit.toNat ≤ 255
        ∧ 1 ≤ p.ceiling.toNat ∧ p.ceiling.toNat ≤ Config.maxCeiling then
      some { retryLimit := p.retryLimit.toNat, readTimeout := p.readTimeout.toNat,
             probeWindow := p.probeWindow.toNat, guardTime := p.guardTime.toNat,
             starveLimit := p.starveLimit.toNat, checkMode := mode, ceiling := p.ceiling.toNat }
    else none

/-- The rule record that STAGE RULE offers, or none where a field is not one of its values (R166). -/
def RuleOffer.record (r : RuleOffer) : Option ShedRule :=
  match flagOf r.enable, sourceOf r.source, levelOf r.level, actionOf r.action with
  | some e, some src, some l, some act => some { enable := e, source := src, level := l, action := act, classes := r.classes }
  | _, _, _, _ => none

/-- The comparator settings that STAGE RULE offers: `some none` when it offers none, `none` when it fails (R166). -/
def RuleOffer.settings (r : RuleOffer) : Option (Option (Source × Settings)) :=
  if r.comparator = 0 then some none
  else
    let x : Settings := { high := r.high.toNat, low := r.low.toNat, debounce := r.debounce.toNat }
    match sourceOf r.comparator with
    | none => none
    | some .quiesced => none
    | some src => if x.ok src then some (some (src, x)) else none

end Sys2Proof
end

