-- ==== Sys2Proof/Machine/Flags.lean ====
section
/-! DEFINITION. The marks and levels of the part: comparator samples (R163), applied shed marks (R175), shed classes
(R10) and the levels of the sources (R164). -/

namespace Sys2Proof.Machine

open Sys2Proof

/-- A comparator takes one sample (R163). -/
def Comparator.sample (c : Comparator) (x : Settings) (v : Nat) : Comparator :=
  match c.level with
  | .low =>
    if x.high ≤ v then
      if x.debounce ≤ c.run + 1 then { level := .high, run := 0 } else { level := .low, run := c.run + 1 }
    else { level := .low, run := 0 }
  | .high =>
    if v ≤ x.low then
      if x.debounce ≤ c.run + 1 then { level := .low, run := 0 } else { level := .high, run := c.run + 1 }
    else { level := .high, run := 0 }

/-- A comparator at the swap of a commit: its run starts again where a setting changed (R167). -/
def Comparator.swap (c : Comparator) (before after : Settings) : Comparator :=
  if before = after then c else { c with run := 0 }

/-- The present level of a source; QUIESCED is HIGH exactly while the quiesce state is QUIESCED (R164). -/
def State.level (s : State) : Source → Level
  | .lat1 => s.pressure.lat1.level
  | .lat2 => s.pressure.lat2.level
  | .tags => s.pressure.tags.level
  | .quiesced => if s.array.quiesce = .quiesced then .high else .low

/-- The four rule numbers, in order. -/
def ruleNumbers : List RuleNumber := [0, 1, 2, 3]

/-- A shed rule's record in the active bank (R168). -/
def State.rule (s : State) (r : RuleNumber) : ShedRule := s.tables.active.shed.rules[r]

/-- A shed rule's state (R168). -/
def State.ruleState (s : State) (r : RuleNumber) : RuleState := s.rules[r]

/-- Sets a shed rule's state. -/
def State.setRule (s : State) (r : RuleNumber) (x : RuleState) : State := { s with rules := s.rules.set r.1 x r.2 }

/-- Whether a stream carries the mark of a rule (R19). -/
def Stream.marked (x : Stream) (r : RuleNumber) : Bool := x.marks.getLsbD r.1

/-- Adds a rule's mark. -/
def Stream.addMark (x : Stream) (r : RuleNumber) : Stream := { x with marks := x.marks ||| (1#4 <<< r.1) }

/-- Removes a rule's mark. -/
def Stream.dropMark (x : Stream) (r : RuleNumber) : Stream := { x with marks := x.marks &&& ~~~(1#4 <<< r.1) }

/-- Whether a stream carries a mark of a rule with the given action (R40, R177). -/
def State.markedWith (s : State) (x : Stream) (act : ShedAction) : Bool :=
  ruleNumbers.any (fun r => x.marked r && (s.rule r).action == act)

/-- A station's entry in a bank (R9). -/
def Bank.station (b : Bank) (n : Half) : Option StationEntry := b.stations.find? (fun e => e.station == n)

/-- A clip's entry in a bank, by clip ID alone (R17). -/
def Bank.clip (b : Bank) (i : Word) : Option Clip := b.clips.find? (fun c => c.clipId == i)

/-- A rule's class mask holds the shed class of a station's active entry; a station absent from the active bank belongs
to no class (R10). -/
def State.inClass (s : State) (r : RuleNumber) (station : Option Half) : Bool :=
  match station with
  | none => false
  | some n => match s.tables.active.station n with
    | none => false
    | some e => (s.rule r).classes.getLsbD e.shedClass

/-- A rule applies at OPEN to a station: it is TRIPPED and reaches the station's class (R27). -/
def State.appliesAtOpen (s : State) (r : RuleNumber) (station : Half) : Bool :=
  s.ruleState r == .tripped && s.inClass r (some station)

/-- Some rule with the given action applies at OPEN to a station (R26, R27). -/
def State.shedsAtOpen (s : State) (station : Half) (act : ShedAction) : Bool :=
  ruleNumbers.any (fun r => s.appliesAtOpen r station && (s.rule r).action == act)

/-- The marks that a stream opened by a station takes (R27). -/
def State.marksAtOpen (s : State) (station : Half) : BitVec 4 :=
  ruleNumbers.foldl (fun m r => if s.appliesAtOpen r station then m ||| (1#4 <<< r.1) else m) 0

/-- Half of a configured depth, but at least 1 (R27, R172). -/
def halfDepth (d : Nat) : Nat := max 1 (d / 2)

end Sys2Proof.Machine
end

