-- ==== Sys2Proof/Machine/Tables.lean ====
section
/-! DEFINITION. The table store's side of the machine: lookups, page lists, banks and the swap of a commit (chapter 1),
and what a stream's bound entry gives it: rate, page bound, reservation (R22). -/

namespace Sys2Proof.Machine

open Sys2Proof

/-! ## Resolving a frame (R5, R7) -/

/-- The volume page of a logical page of a list of extents (R5). -/
def volumePage : List Extent → Nat → Option Nat
  | [], _ => none
  | e :: r, p => if p < e.pages then some (e.start / 256 + p) else volumePage r (p - e.pages)

/-- The entry of logical page `p` in the page list of the frame that occupies logical blocks `lo` to `hi` (R7). -/
def RenditionRecord.pageEntry (x : RenditionRecord) (lo hi p : Nat) : Option PageEntry :=
  match volumePage x.extents p with
  | none => none
  | some v =>
    let first := if p = lo / 256 then lo % 256 else 0
    let last := if p = hi / 256 then hi % 256 else 255
    some { key := { volume := x.volume, page := v }, first := first, count := last + 1 - first, span := none }

/-- The page list of frame `f`, and no page list for a frame outside 0 to frame count − 1 (R7). -/
def RenditionRecord.pageList (x : RenditionRecord) (f : Nat) : List PageEntry :=
  if f < x.frameCount then
    let lo := f * x.frameBlocks
    let hi := (f + 1) * x.frameBlocks - 1
    (List.range (hi / 256 + 1 - lo / 256)).filterMap (fun i => x.pageEntry lo hi (lo / 256 + i))
  else []

/-- The geometry of two renditions is identical (R4). -/
def RenditionRecord.sameGeometry (x y : RenditionRecord) : Bool :=
  x.volume == y.volume && x.frameBlocks == y.frameBlocks && x.frameCount == y.frameCount && x.extents == y.extents

/-! ## Clip entries -/

/-- The rendition record of a clip, if present (R4). -/
def Clip.record (c : Clip) : Rendition → Option RenditionRecord
  | .primary => some c.primary
  | .proxy => c.proxy

/-- The entry with a clip ID and edition, from the active bank or else from the retired entries (R17). -/
def TableStore.lookup (t : TableStore) (i e : Word) : Option (FoundIn × Clip) :=
  match t.active.clips.find? (fun c => c.clipId == i && c.edition == some e) with
  | some c => some (.active, c)
  | none => match t.retired.find? (fun c => c.clipId == i && c.edition == some e) with
    | some c => some (.retired, c)
    | none => none

/-- The entry to which a stream is bound (R8). -/
def State.boundClip (s : State) (r : Stream) : Option Clip :=
  match r.binding with
  | none => none
  | some (i, e) => match s.tables.lookup i e with
    | none => none
    | some (_, c) => some c

/-- The record of the rendition in use, in the bound entry. -/
def State.boundRecord (s : State) (r : Stream) : Option RenditionRecord :=
  match s.boundClip r with
  | none => none
  | some c => c.record r.rendition

/-- The frame count of the rendition in use; 0 where a stream is bound to no entry. -/
def State.frameCount (s : State) (r : Stream) : Nat :=
  match s.boundRecord r with
  | none => 0
  | some x => x.frameCount

/-- The page bound of a rendition of a clip; 0 where it has no such rendition. -/
def Clip.bound (c : Clip) (r : Rendition) : Nat :=
  match c.record r with
  | none => 0
  | some x => x.pageBound

/-- The page bound that the negotiation reservation uses: the larger of the two (R22). -/
def Clip.negotiationBound (c : Clip) : Nat := max (c.bound .primary) (c.bound .proxy)

/-- The reservation that a state, a depth, a rendition and a clip entry give (R22). -/
def reservationFor (state : StreamState) (depth : Nat) (r : Rendition) (c : Clip) : Nat :=
  match state with
  | .closed => 0
  | .faulted => 0
  | .negotiating => depth * c.negotiationBound
  | _ => depth * c.bound r

/-- The reservation of a record by R22. -/
def State.reservationOf (s : State) (r : Stream) : Nat :=
  match s.boundClip r with
  | none => 0
  | some c => reservationFor r.state r.effDepth r.rendition c

/-- Recomputes a stream's reservation (R22). -/
def State.reserve (s : State) (h : Handle) : State :=
  s.setStream h { s.stream h with reservation := s.reservationOf (s.stream h) }

/-! ## Cadence arithmetic (R142, R2) -/

/-- The offset of index `i` for rate `n`/`d`, in microseconds. -/
def offset (n d i : Nat) : Nat := i * d * 1000000 / n

/-- The rate of the entry a stream is bound to. -/
def State.boundRate (s : State) (r : Stream) : Option (Nat × Nat) :=
  match s.boundClip r with
  | none => none
  | some c => some (c.numerator, c.denominator)

/-- The offset of index `i` under a rate that may be absent. -/
def rateOffset : Option (Nat × Nat) → Nat → Nat
  | none, _ => 0
  | some (n, d), i => offset n d i

/-- The primary bytes per second that a PB carries, rounded up (R2). -/
def Clip.primaryRate (c : Clip) : Nat :=
  (c.primary.frameBlocks * Config.blockBytes * c.numerator + (c.denominator - 1)) / c.denominator

/-! ## The window sequence (R59) -/

/-- The number of frames remaining of a sequence from `p` by step `z` in a rendition of `n` frames. -/
def framesRemaining (n p : Nat) (z : Int) : Nat :=
  if p < n then
    if 0 < z then (n - 1 - p) / z.toNat + 1 else if z < 0 then p / (-z).toNat + 1 else 1
  else 0

/-- The frame at place `j` of the sequence, or none where it lies outside 0 to `n` − 1. -/
def sequenceFrame (n p : Nat) (z : Int) (j : Nat) : Option Nat :=
  let f : Int := p + z * j
  if 0 ≤ f ∧ f < n then some f.toNat else none

/-- The last frame of the sequence of a stream (R42). -/
def State.lastFrame (s : State) (r : Stream) : Nat :=
  match sequenceFrame (s.frameCount r) r.position r.stride (framesRemaining (s.frameCount r) r.position r.stride - 1) with
  | some f => f
  | none => r.position

/-! ## Banks (R13 to R16) -/

/-- Places an entry in a list sorted by clip ID, replacing one with the same ID (R13). -/
def insertClip (c : Clip) : List Clip → List Clip
  | [] => [c]
  | x :: r => if c.clipId < x.clipId then c :: x :: r else if c.clipId = x.clipId then c :: r else x :: insertClip c r

/-- Places a station entry in a list sorted by station number, replacing one with the same number (R14). -/
def insertStation (e : StationEntry) : List StationEntry → List StationEntry
  | [] => [e]
  | x :: r =>
    if e.station < x.station then e :: x :: r else if e.station = x.station then e :: r else x :: insertStation e r

/-- The settings of a source's comparator; QUIESCED has none, and LAT1's stand in for it where nothing reads them. -/
def ShedSettings.of (x : ShedSettings) : Source → Settings
  | .lat1 => x.lat1
  | .lat2 => x.lat2
  | .tags => x.tags
  | .quiesced => x.lat1

/-- Replaces the settings of a source's comparator (R166). -/
def ShedSettings.put (x : ShedSettings) (src : Source) (v : Settings) : ShedSettings :=
  match src with
  | .lat1 => { x with lat1 := v }
  | .lat2 => { x with lat2 := v }
  | .tags => { x with tags := v }
  | .quiesced => x

/-- All fields of two entries other than the edition are equal, as staged (R16). -/
def Clip.sameFields (x y : Clip) : Bool :=
  x.clipId == y.clipId && x.numerator == y.numerator && x.denominator == y.denominator
    && x.firstTimecode == y.firstTimecode && x.primary.sameGeometry y.primary
    && match x.proxy, y.proxy with
      | none, none => true
      | some p, some q => p.sameGeometry q
      | _, _ => false

/-- What a staged entry becomes at the swap of a commit of generation `g` (R16). -/
def Bank.committed (active : Bank) (g : Word) (c : Clip) : Clip :=
  match active.clip c.clipId with
  | none => { c with edition := some g }
  | some a => if c.sameFields a then a else { c with edition := some g }

/-- An entry of the old active map is retired by the swap: its clip ID leaves the map, or its entry changes (R16). -/
def Bank.retires (staged : Bank) (a : Clip) : Bool :=
  match staged.clip a.clipId with
  | none => true
  | some c => !c.sameFields a

/-- The swap of a commit on the tables (R16, R192): the staged bank becomes active, with editions and retired entries,
and the walk starts at handle 0 for its requester. -/
def TableStore.swap (t : TableStore) (asker : Half) (req : Word) : TableStore :=
  let g := t.generation + 1
  { active := { t.staged with clips := t.staged.clips.map (t.active.committed g) }
    staged := t.staged
    retired := t.active.clips.filter t.staged.retires
    generation := g
    walk := .walking 0 asker req }

/-- Copies the active bank into the staged bank (R15, R165, R189). -/
def TableStore.copyActive (t : TableStore) : TableStore := { t with staged := t.active }

end Sys2Proof.Machine
end

