-- ==== Sys2Proof/Machine/Buffer.lean ====
section
/-! DEFINITION. The span buffer (chapter 4): directory, allocation, the allocation queue, attach, detach, and what
becomes of a span when its use changes. -/

namespace Sys2Proof.Machine

open Sys2Proof

/-! ## Reading the span records -/

/-- The record of a span; a FREE span has none (R74). -/
def SpanBuffer.span (b : SpanBuffer) (i : Nat) : Option Span := Keyed.get b.spans i

/-- A span stands in the directory: it is FILLING or VALID (R77). -/
def Span.found (x : Span) : Bool :=
  match x.state with
  | .filling _ => true
  | .valid => true
  | .stale => false

/-- The span that the directory finds for a key (R77). -/
def SpanBuffer.find (b : SpanBuffer) (k : Key) : Option Nat :=
  match b.spans.find? (fun e => e.2.key == k && e.2.found) with
  | some e => some e.1
  | none => none

/-- The fetch record of a span (R76). -/
def Span.fetch (x : Span) : Option Fetch :=
  match x.state with
  | .filling f => some f
  | .valid => none
  | .stale => none

/-- The fetch record that a span holds, if it is FILLING. -/
def SpanBuffer.fetch (b : SpanBuffer) (i : Nat) : Option Fetch :=
  match b.span i with
  | none => none
  | some x => x.fetch

/-- The free list, oldest first (R78). -/
def SpanBuffer.freeList (b : SpanBuffer) : List Nat :=
  List.range' b.fresh (Config.bufferPages - b.fresh) ++ b.freed

/-- The earliest deadline of a referrer list (R83); 0 for an empty one. -/
def earliest : List Referrer → Nat
  | [] => 0
  | r :: [] => r.deadline
  | r :: q :: t => min r.deadline (earliest (q :: t))

/-! ## Writing the span records -/

/-- Sets the record of a span. -/
def SpanBuffer.put (b : SpanBuffer) (i : Nat) (x : Span) : SpanBuffer := { b with spans := Keyed.put b.spans i x }

/-- Sets the record of a span. -/
def State.putSpan (s : State) (i : Nat) (x : Span) : State := { s with buffer := s.buffer.put i x }

/-- Sets the fetch record of a FILLING span. -/
def State.putFetch (s : State) (i : Nat) (f : Fetch) : State :=
  match s.buffer.span i with
  | some x => s.putSpan i { x with state := .filling f }
  | none => s

/-- A new fetch record in QUEUED (R100). -/
def Fetch.create (deadline : Nat) (sequence : Long) : Fetch :=
  { state := .queued, deadline := deadline, sequence := sequence, failures := 0, notBefore := none, tag := none,
    base := 0, received := 0, check := 0, issueTime := none, expiry := none, firstIssue := none, report := false,
    waiting := false }

/-- Draws the next enqueue sequence (R101). -/
def State.nextSequence (s : State) : State := { s with fetch := { s.fetch with enqueue := s.fetch.enqueue + 1 } }

/-! ## Allocation (R80) -/

/-- Takes a span from the front of the free list, or evicts the span at the front of the resting list (R80). -/
def SpanBuffer.take (b : SpanBuffer) : Option (Nat × SpanBuffer) :=
  if b.fresh < Config.bufferPages then some (b.fresh, { b with fresh := b.fresh + 1 })
  else match b.freed with
    | i :: r => some (i, { b with freed := r })
    | [] => match b.resting with
      | i :: r => some (i, { b with resting := r, spans := Keyed.drop b.spans i })
      | [] => none

/-- Gives a key a span in FILLING with the referrers given and a QUEUED fetch of their earliest deadline (R80, R100);
none where both lists are empty. -/
def State.allocate (s : State) (k : Key) (refs : List Referrer) : Option (Nat × State) :=
  match s.buffer.take with
  | none => none
  | some (i, b) =>
    let f := Fetch.create (earliest refs) s.fetch.enqueue
    let x : Span := { key := k, state := .filling f, refs := refs, pins := 0, refill := false, checkFailed := false }
    some (i, State.nextSequence { s with buffer := b.put i x })

/-! ## Slots and the spans they name -/

/-- Applies a change to the slot of a window or sending set that has the serial given. -/
def Window.mapSlot (w : Window) (serial : Nat) (f : Slot → Slot) : Window :=
  { w with slots := w.slots.map (fun x => if x.serial = serial then f x else x),
           sending := w.sending.map (fun x => if x.serial = serial then f x else x) }

/-- Applies a change to one slot of a stream. -/
def State.mapSlot (s : State) (h : Handle) (serial : Nat) (f : Slot → Slot) : State :=
  s.setWindow h ((s.window h).mapSlot serial f)

/-- A slot of a stream, from its window or its sending set. -/
def Window.slot (w : Window) (serial : Nat) : Option Slot :=
  (w.slots ++ w.sending).find? (fun x => x.serial == serial)

/-- The slot's page-list entry for a key names the span given (R56). -/
def Slot.name (x : Slot) (k : Key) (span : Option Nat) : Slot :=
  { x with pages := x.pages.map (fun e => if e.key = k then { e with span := span } else e) }

/-- The page-list entries of the slots that referrers stand for come to name a span for a key. -/
def State.nameSpan (s : State) (k : Key) (span : Option Nat) : List Referrer → State
  | [] => s
  | r :: t => (s.mapSlot r.handle r.slot (fun x => x.name k span)).nameSpan k span t

/-! ## The allocation queue (R81) -/

/-- Serves the keys given, in order, while a span can be taken; the queue keeps those not served. -/
def State.serveKeys (s : State) : List WaitingKey → State
  | [] => { s with buffer := { s.buffer with waiting := [] } }
  | w :: t => match s.allocate w.key w.slots with
    | none => { s with buffer := { s.buffer with waiting := w :: t } }
    | some (i, s') => (s'.nameSpan w.key (some i) w.slots).serveKeys t

/-- Serves the allocation queue, whenever a span becomes FREE or rests (R81). -/
def State.serve (s : State) : State := s.serveKeys s.buffer.waiting

/-- A key without a span comes to wait with its slots (R81). -/
def State.waitFor (s : State) (k : Key) (refs : List Referrer) : State :=
  { s with buffer := { s.buffer with waiting := s.buffer.waiting ++ [{ key := k, slots := refs }] } }

/-- A slot that waits leaves its key, and a key left with no slots leaves the queue (R81). -/
def State.leaveKey (s : State) (h : Handle) (serial : Nat) (k : Key) : State :=
  let left (w : WaitingKey) : WaitingKey :=
    if w.key = k then { w with slots := w.slots.filter (fun r => !(r.handle == h && r.slot == serial)) } else w
  { s with buffer := { s.buffer with waiting := (s.buffer.waiting.map left).filter (fun w => !w.slots.isEmpty) } }

/-! ## Ends of use (R78, R82, R84, R91) -/

/-- A span becomes FREE, at the end of the free list (R78). -/
def State.freeSpan (s : State) (i : Nat) : State :=
  State.serve { s with buffer :=
    { s.buffer with spans := Keyed.drop s.buffer.spans i, freed := s.buffer.freed ++ [i] } }

/-- A VALID span without use joins the end of the resting list (R78). -/
def State.restSpan (s : State) (i : Nat) : State :=
  State.serve { s with buffer := { s.buffer with resting := s.buffer.resting ++ [i] } }

/-- A fetch takes the earliest deadline of its span's referrers (R83). -/
def Span.redeadline (x : Span) : Span :=
  match x.state with
  | .filling f => if x.refs.isEmpty then x else { x with state := .filling { f with deadline := earliest x.refs } }
  | .valid => x
  | .stale => x

/-- What becomes of a span when a reference or a pin of it has gone (R82, R84, R91, R94). -/
def State.settleUse (s : State) (i : Nat) : State :=
  match s.buffer.span i with
  | none => s
  | some x => match x.state with
    | .valid => if x.refs.isEmpty ∧ x.pins = 0 then s.restSpan i else s
    | .stale => if x.refs.isEmpty ∧ x.pins = 0 then s.freeSpan i else s
    | .filling f =>
      if x.refs.isEmpty then
        match f.state with
        | .queued => s.freeSpan i
        | .deferred => s.freeSpan i
        | .issued => s
      else s.putSpan i x.redeadline

/-! ## Attach and detach (R79, R82) -/

/-- What the span buffer answers to an attach (R79): the span named, if any, whether it is VALID, and its CHECK_FAILED
mark. WAITING names no span. -/
structure Attached where
  span  : Option Nat
  valid : Bool
  mark  : Bool
  deriving DecidableEq, Repr

/-- Whether a key waits in the allocation queue. -/
def SpanBuffer.awaits (b : SpanBuffer) (k : Key) : Bool := b.waiting.any (fun w => w.key == k)

/-- One slot attaches one page (R79). -/
def State.attach (s : State) (r : Referrer) (k : Key) : State × Attached :=
  match s.buffer.find k with
  | some i => match s.buffer.span i with
    | none => (s, { span := none, valid := false, mark := false })
    | some x =>
      let x' := Span.redeadline { x with refs := x.refs ++ [r] }
      let b := s.buffer.put i x'
      ({ s with buffer := { b with resting := b.resting.filter (fun j => j != i) } },
        { span := some i, valid := x.fetch.isNone, mark := x.checkFailed })
  | none =>
    if s.buffer.awaits k then
      let joined (w : WaitingKey) : WaitingKey := if w.key = k then { w with slots := w.slots ++ [r] } else w
      ({ s with buffer := { s.buffer with waiting := s.buffer.waiting.map joined } },
        { span := none, valid := false, mark := false })
    else match s.allocate k [r] with
      | some (i, s') => (s', { span := some i, valid := false, mark := false })
      | none => (s.waitFor k [r], { span := none, valid := false, mark := false })

/-- One slot stops naming one span (R82); a span the slot is no referrer of is left as it is. -/
def State.detachSpan (s : State) (h : Handle) (serial i : Nat) : State :=
  match s.buffer.span i with
  | none => s
  | some x =>
    if x.refs.any (fun r => r.handle == h && r.slot == serial) then
      State.settleUse
        (s.putSpan i { x with refs := x.refs.filter (fun r => !(r.handle == h && r.slot == serial)) }) i
    else s

/-- The span that a slot of a stream names for a key at present. -/
def State.namedSpan (s : State) (h : Handle) (serial : Nat) (k : Key) : Option Nat :=
  match (s.window h).slot serial with
  | none => none
  | some x => match x.pages.find? (fun e => e.key == k) with
    | none => none
    | some e => e.span

/-- A slot detaches the page of a key: from the span it names, or from the allocation queue (R81, R82). -/
def State.detachKey (s : State) (h : Handle) (serial : Nat) (k : Key) : State :=
  match s.namedSpan h serial k with
  | some i => s.detachSpan h serial i
  | none => s.leaveKey h serial k

/-- A slot detaches the pages of the keys given, in order. -/
def State.detachKeys (s : State) (h : Handle) (serial : Nat) : List Key → State
  | [] => s
  | k :: t => (s.detachKey h serial k).detachKeys h serial t

/-! ## Deadlines and the sending indication (R83, R90) -/

/-- Applies a change to the referrer entries of one slot. -/
def mapReferrer (h : Handle) (serial : Nat) (f : Referrer → Referrer) (l : List Referrer) : List Referrer :=
  l.map (fun r => if r.handle = h ∧ r.slot = serial then f r else r)

/-- Applies a change to one slot's referrer entry in the span it names for a key, or in the allocation queue. -/
def State.mapEntry (s : State) (h : Handle) (serial : Nat) (f : Referrer → Referrer) (e : PageEntry) : State :=
  match e.span with
  | some i => match s.buffer.span i with
    | none => s
    | some x => s.putSpan i (Span.redeadline { x with refs := mapReferrer h serial f x.refs })
  | none =>
    let g (w : WaitingKey) : WaitingKey := if w.key = e.key then { w with slots := mapReferrer h serial f w.slots } else w
    { s with buffer := { s.buffer with waiting := s.buffer.waiting.map g } }

/-- Applies a change to one slot's referrer entries, page by page. -/
def State.mapEntries (s : State) (h : Handle) (serial : Nat) (f : Referrer → Referrer) : List PageEntry → State
  | [] => s
  | e :: t => (s.mapEntry h serial f e).mapEntries h serial f t

/-! ## Counts (R95, R105) -/

/-- The number of span records with a property. -/
def SpanBuffer.countSpans (b : SpanBuffer) (p : Span → Bool) : Nat := (b.spans.filter (fun e => p e.2)).length

/-- The six counts of READ SPAN COUNTS (R95). -/
def SpanBuffer.counts (b : SpanBuffer) : SpanCounts :=
  { free := b.freeList.length
    filling := b.countSpans (fun x => x.fetch.isSome)
    referenced := b.countSpans (fun x => x.state == .valid && (!x.refs.isEmpty || decide (0 < x.pins)))
    resting := b.resting.length
    stale := b.countSpans (fun x => x.state == .stale)
    waiting := b.waiting.length }

end Sys2Proof.Machine
end

