-- ==== Sys2Proof/Machine/Windows.lean ====
section
/-! DEFINITION. The window manager (chapter 3): slots, deadlines, top-up, build, re-target, rebuild, depth changes, and
what a fill, a failure or a rewrite does to slots. The reports that follow are in Streams.lean. -/

namespace Sys2Proof.Machine

open Sys2Proof

/-! ## Deadlines (R63, R64) -/

/-- The deadline of the slot at place `j` of a stream's window: counted from the anchor in PLAYING (R64), from now in
any other state (R63), less the guard; a computation that falls below time 0 gives 0 (chapter 3.4). -/
def State.slotDeadline (s : State) (h : Handle) (j : Nat) : Nat :=
  let r := s.stream h
  let c := s.cadence h
  let early := s.tables.active.policy.guardTime * 1000
  if r.state = .playing then c.anchor + rateOffset (s.boundRate r) (c.index + j) - early
  else s.now + rateOffset (s.boundRate r) j - early

/-- Sets a slot's deadline and hands it over for every span the slot names (R83). -/
def State.setDeadline (s : State) (h : Handle) (serial d : Nat) : State :=
  match (s.window h).slot serial with
  | none => s
  | some x =>
    (s.mapSlot h serial (fun y => { y with deadline := d })).mapEntries h serial
      (fun r => { r with deadline := d }) x.pages

/-- Recomputes the deadlines of slots that stand at places `j`, `j + 1` and so on. -/
def State.setDeadlines (s : State) (h : Handle) (j : Nat) : List Nat → State
  | [] => s
  | serial :: t => (s.setDeadline h serial (s.slotDeadline h j)).setDeadlines h (j + 1) t

/-- Recomputes the deadline of every slot of a window (R64, R65). -/
def State.recomputeDeadlines (s : State) (h : Handle) : State :=
  s.setDeadlines h 0 ((s.window h).slots.map Slot.serial)

/-! ## Creating and removing slots (R61, R73) -/

/-- What attaching a page list leaves: the state, the entries with the spans named, whether every span was VALID, and
whether one of them carried CHECK_FAILED. -/
structure Creation where
  state : State
  pages : List PageEntry
  valid : Bool
  mark  : Bool

/-- Attaches the pages of a list in list order (R61). -/
def State.attachAll (s : State) (r : Referrer) : List PageEntry → Creation
  | [] => { state := s, pages := [], valid := true, mark := false }
  | e :: t =>
    let a := s.attach r e.key
    let c := a.1.attachAll r t
    { state := c.state, pages := { e with span := a.2.span } :: c.pages, valid := a.2.valid && c.valid,
      mark := a.2.mark || c.mark }

/-- Creates a slot for a frame at place `j` of a stream's window (R61). -/
def State.createSlot (s : State) (h : Handle) (f j : Nat) : State :=
  let r := s.stream h
  let d := s.slotDeadline h j
  let pages := match s.boundRecord r with
    | none => []
    | some x => x.pageList f
  let serial := s.nextSlot
  let c := State.attachAll { s with nextSlot := s.nextSlot + 1 }
    { handle := h, slot := serial, deadline := d, sending := false } pages
  let x : Slot := { serial := serial, frame := f, rendition := r.rendition, pages := c.pages, deadline := d,
                    state := if c.valid then .ready else .pending, checkFailed := c.mark, stale := false }
  let w := c.state.window h
  c.state.setWindow h { w with slots := w.slots.take j ++ x :: w.slots.drop j }

/-- Takes a slot out of a stream's window or sending set. -/
def State.removeSlot (s : State) (h : Handle) (serial : Nat) : State :=
  let w := s.window h
  s.setWindow h { w with slots := w.slots.filter (fun x => x.serial != serial),
                         sending := w.sending.filter (fun x => x.serial != serial) }

/-- Detaches a slot: each span it names, in page-list order, and the slot is then removed (R73). -/
def State.detachSlot (s : State) (h : Handle) (serial : Nat) : State :=
  match (s.window h).slot serial with
  | none => s
  | some x => (s.detachKeys h serial (x.pages.map PageEntry.key)).removeSlot h serial

/-- Detaches slots one by one. -/
def State.detachSlots (s : State) (h : Handle) : List Nat → State
  | [] => s
  | serial :: t => (s.detachSlot h serial).detachSlots h t

/-- Detaches every slot of a stream's window (R66, R73). The rules give no order among the slots; head first is a DESIGN
CHOICE (notes/assumptions/30.md). -/
def State.detachWindow (s : State) (h : Handle) : State := s.detachSlots h ((s.window h).slots.map Slot.serial)

/-- Detaches every slot of a stream's sending set (R73), which has no order of its own (R55): the frame that started first
is detached first, a DESIGN CHOICE (notes/assumptions/30.md). -/
def State.detachSending (s : State) (h : Handle) : State := s.detachSlots h ((s.window h).sending.map Slot.serial)

/-- Sets a stream's cursor. -/
def State.setCursor (s : State) (h : Handle) (c : Option Nat) : State :=
  s.setWindow h { s.window h with cursor := c }

/-- The number of a stream's slots, window and sending set together (R59). -/
def Window.count (w : Window) : Nat := w.slots.length + w.sending.length

/-! ## Top-up, build, re-target, rebuild (R60, R62, R65, R66) -/

/-- The passes of a top-up, at most `n` (R60). -/
def State.topUpPasses (s : State) (h : Handle) : Nat → State
  | 0 => s
  | n + 1 => match (s.window h).cursor with
    | none => s
    | some f =>
      if (s.window h).count < (s.stream h).effDepth then
        let s := s.createSlot h f (s.window h).slots.length
        let r := s.stream h
        (s.setCursor h (sequenceFrame (s.frameCount r) f r.stride 1)).topUpPasses h n
      else s

/-- Top-up: slots are appended until their number reaches the effective depth or the cursor is exhausted (R60). -/
def State.topUp (s : State) (h : Handle) : State :=
  if (s.stream h).windowed then s.topUpPasses h (s.stream h).effDepth else s

/-- Builds a window at the stream's position (R62). -/
def State.build (s : State) (h : Handle) : State := (s.setCursor h (some (s.stream h).position)).topUp h

/-- Rebuilds a window: every slot of the window is replaced (R66). -/
def State.rebuild (s : State) (h : Handle) : State :=
  if (s.stream h).windowed then (s.detachWindow h).build h else s

/-- The frames of the new window of a re-target: the first `n` of the sequence (R59, R65). -/
def State.targetFrames (s : State) (h : Handle) : List Nat :=
  let r := s.stream h
  let frames := s.frameCount r
  let n := min (framesRemaining frames r.position r.stride) (r.effDepth - (s.window h).sending.length)
  (List.range n).filterMap (sequenceFrame frames r.position r.stride)

/-- A slot that a re-target keeps: its frame and rendition appear in the new window, and it is not FAILED (R65). -/
def Slot.kept (x : Slot) (frames : List Nat) (r : Rendition) : Bool :=
  frames.contains x.frame && x.rendition == r && x.state != .failed

/-- Creates the missing slots of a re-target, each in its window place (R65). -/
def State.fillPlaces (s : State) (h : Handle) (j : Nat) : List Nat → State
  | [] => s
  | f :: t =>
    if (s.window h).slots.any (fun x => x.frame == f) then s.fillPlaces h (j + 1) t
    else (s.createSlot h f j).fillPlaces h (j + 1) t

/-- Places the slots of a window in the order of the frames given. -/
def Window.ordered (w : Window) (frames : List Nat) : Window :=
  { w with slots := frames.filterMap (fun f => w.slots.find? (fun x => x.frame == f)) }

/-- Re-targets a window to the stream's new position and step (R65). That the unwanted slots are detached head first is a
DESIGN CHOICE (notes/assumptions/30.md). -/
def State.retarget (s : State) (h : Handle) : State :=
  let r := s.stream h
  let frames := s.targetFrames h
  let unwanted := ((s.window h).slots.filter (fun x => !x.kept frames r.rendition)).map Slot.serial
  let s := s.detachSlots h unwanted
  let s := (s.setWindow h ((s.window h).ordered frames))
  let places := (List.range frames.length).filterMap (fun j => match frames[j]? with
    | none => none
    | some f => match (s.window h).slots.find? (fun x => x.frame == f) with
      | none => none
      | some x => some (j, x.serial))
  let s := places.foldl (fun s p => s.setDeadline h p.2 (s.slotDeadline h p.1)) s
  let s := s.fillPlaces h 0 frames
  s.setCursor h (sequenceFrame (s.frameCount r) r.position r.stride frames.length)

/-! ## Depth changes (R71) -/

/-- Detaches tail slots until window and sending set hold no more than the effective depth (R71). -/
def State.reduceWindow (s : State) (h : Handle) : State :=
  let w := s.window h
  let keep := w.slots.length - (w.count - (s.stream h).effDepth)
  match w.slots.drop keep with
  | [] => s
  | x :: t => (s.detachSlots h ((x :: t).map Slot.serial).reverse).setCursor h (some x.frame)

/-! ## Slots and the events of the span buffer (R58, R68, R69, R70) -/

/-- Every entry of a slot's page list names a VALID span (R57). -/
def State.pagesValid (s : State) (x : Slot) : Bool :=
  x.pages.all (fun e => match e.span with
    | none => false
    | some i => match s.buffer.span i with
      | none => false
      | some y => y.state == .valid)

/-- Some span that a slot names carries the span mark CHECK_FAILED (R58). -/
def State.pagesMarked (s : State) (x : Slot) : Bool :=
  x.pages.any (fun e => match e.span with
    | none => false
    | some i => match s.buffer.span i with
      | none => false
      | some y => y.checkFailed)

/-- What a fill completion with the given span mark does to one slot (R68). -/
def State.filledSlot (s : State) (mark : Bool) (x : Slot) : Slot :=
  { x with checkFailed := x.checkFailed || mark,
           state := if x.state = .pending ∧ s.pagesValid x then .ready else x.state }

/-- A fill completion reaches the slots that name the span (R68). -/
def State.fillSlots (s : State) (mark : Bool) : List Referrer → State
  | [] => s
  | r :: t => (s.mapSlot r.handle r.slot (s.filledSlot mark)).fillSlots mark t

/-- A span failure reaches the slots that named the span: each becomes FAILED and detaches its other spans (R69). -/
def State.failSlots (s : State) (k : Key) : List Referrer → State
  | [] => s
  | r :: t =>
    let others := match (s.window r.handle).slot r.slot with
      | none => []
      | some x => (x.pages.map PageEntry.key).filter (fun y => y != k)
    let s := s.detachKeys r.handle r.slot others
    let failed (x : Slot) : Slot := { x with state := .failed, pages := [], checkFailed := false, stale := false }
    (s.mapSlot r.handle r.slot failed).failSlots k t

/-- A rewrite moves window slots to the new span of a key, or to none while the key waits: they become PENDING, and
their CHECK_FAILED mark is recomputed (R70, R81). -/
def State.moveSlots (s : State) (k : Key) (span : Option Nat) : List Referrer → State
  | [] => s
  | r :: t =>
    let moved (x : Slot) : Slot :=
      let y := x.name k span
      { y with state := if y.state = .ready then .pending else y.state, checkFailed := s.pagesMarked y }
    (s.mapSlot r.handle r.slot moved).moveSlots k span t

/-- A rewrite makes a span of SENDING slots STALE: they take the STALE mark (R70). -/
def State.staleSlots (s : State) : List Referrer → State
  | [] => s
  | r :: t => (s.mapSlot r.handle r.slot (fun x => { x with stale := true })).staleSlots t

/-- The number of a window's slots in a state (R197). -/
def Window.countState (w : Window) (st : SlotState) : Nat := (w.slots.filter (fun x => x.state == st)).length

end Sys2Proof.Machine
end

