-- ==== Sys2Proof/Machine/Cadence.lean ====
section
/-! DEFINITION. The cadence of a stream and the decision at a due time (chapter 7.1 and 7.2). -/

namespace Sys2Proof.Machine

open Sys2Proof

/-- A cadence stops: no next due time, and a clear head-wait flag (R151). -/
def Cadence.stop (c : Cadence) : Cadence := { c with nextDue := none, headWait := false }

/-- Stops a stream's cadence. -/
def State.stopCadence (s : State) (h : Handle) : State := s.setCadence h (s.cadence h).stop

/-- The due time of the present delivery index (R142). -/
def Cadence.due (c : Cadence) : Nat := c.anchor + rateOffset c.rate c.index

/-- A stream moves to a state other than PLAYING and PAUSED: the pause reason becomes absent and the cadence stops
(R41, R151). -/
def State.moveTo (s : State) (h : Handle) (st : StreamState) : State :=
  (s.setStream h { s.stream h with state := st, pauseReason := none }).stopCadence h

/-- A stream enters PAUSED with a reason and its SN is sent (R41). -/
def State.pauseFor (s : State) (h : Handle) (why : PauseReason) (reason : Reason) : State :=
  ((s.setStream h { s.stream h with state := .paused, pauseReason := some why }).stopCadence h).notify h reason

/-- Taking an anchor: anchor and index are set, the head-wait flag is cleared, and the window's deadlines follow
(R143). -/
def State.takeAnchor (s : State) (h : Handle) (anchor : Nat) : State :=
  let c : Cadence := { s.cadence h with anchor := anchor, index := 0, headWait := false }
  (s.setCadence h { c with nextDue := some c.due }).recomputeDeadlines h

/-- A stream reaches the end of its clip (R42). -/
def State.endOfClip (s : State) (h : Handle) : State :=
  let r := s.stream h
  let s := (s.setStream h { r with position := s.lastFrame r }).moveTo h .idle
  ((s.detachWindow h).detachSending h).notify h .ended

/-- Window and sending set are both empty (R67). -/
def Window.bare (w : Window) : Bool := w.slots.isEmpty && w.sending.isEmpty

/-! ## The decision (R145, R147) -/

/-- What a decision does with the head slot. -/
inductive HeadOutcome where
  | wait
  | send (x : Slot)
  | gap (x : Slot) (cause : GapCause)
  deriving DecidableEq, Repr

/-- The outcome by head slot, credit and late policy: one table for a due time (R145) and for the settlement of a wait
(R147). -/
def headOutcome (head : Option Slot) (credit : Nat) (late : LatePolicy) : HeadOutcome :=
  match head with
  | none => .wait
  | some x => match x.state, late with
    | .failed, _ => .gap x .readFailed
    | .ready, .skip => if 1 ≤ credit then .send x else .gap x .noCredit
    | .ready, .stall => if 1 ≤ credit then .send x else .wait
    | .pending, .skip => .gap x .late
    | .pending, .stall => .wait
    | .sending, _ => .wait

/-- The outcome that a stream's head slot, credit and late policy give at present. -/
def State.outcome (s : State) (h : Handle) : HeadOutcome :=
  let r := s.stream h
  headOutcome (s.window h).slots.head? r.credit r.late

/-! ## Delivery events (R148, R152, R153) -/

/-- Blocks of a slot's frame: the block counts of its page list sum to B (R7). -/
def Slot.blocks (x : Slot) : Nat := (x.pages.map PageEntry.count).sum

/-- The delivery record of a frame that starts (R153). -/
def State.deliveryOf (s : State) (h : Handle) (x : Slot) : Delivery :=
  let r := s.stream h
  { handle := h
    dst := r.owner.getD 0
    slot := x.serial
    frame := x.frame
    timecode := (match s.boundClip r with
      | none => 0
      | some c => c.firstTimecode) + x.frame
    proxy := x.rendition == .proxy
    segments := (x.blocks + 1) / 2
    next := 0
    abandoned := false }

/-- The delivery index advances, and the next due time is recomputed while the cadence runs (R148). -/
def State.bumpIndex (s : State) (h : Handle) : State :=
  let c : Cadence := { s.cadence h with index := (s.cadence h).index + 1 }
  s.setCadence h
    { c with nextDue := if (s.stream h).state = .playing ∧ c.headWait = false then some c.due else c.nextDue }

/-- The position becomes the frame of the new head, or the cursor's frame, or stays (R67). -/
def State.advancePosition (s : State) (h : Handle) : State :=
  let w := s.window h
  let r := s.stream h
  match w.slots.head? with
  | some x => s.setStream h { r with position := x.frame }
  | none => match w.cursor with
    | some f => s.setStream h { r with position := f }
    | none => s

/-- The head slot becomes SENDING: it leaves the window for the sending set as it stands in the window, with the deadline
that an anchor taken in the same event has given it (R64, R147); its referrer entries take the sending indication, and its
delivery record joins the delivery queue (R57, R90, R145, R152). -/
def State.startFrame (s : State) (h : Handle) (x : Slot) : State :=
  let d := s.deliveryOf h x
  let w := s.window h
  let sent := (w.slots.filter (fun y => y.serial == x.serial)).map (fun y => { y with state := .sending })
  let s := s.setWindow h { w with slots := w.slots.filter (fun y => y.serial != x.serial), sending := w.sending ++ sent }
  let s := s.mapEntries h x.serial (fun r => { r with sending := true }) x.pages
  { s with tx := { s.tx with queue := s.tx.queue ++ [d] } }

/-- The delivery event of a sent head: credit, index and counters (R148, R150, R50), and the window's advance (R67). -/
def State.deliverSent (s : State) (h : Handle) (x : Slot) : State :=
  let s := s.setStream h { s.stream h with credit := (s.stream h).credit - 1 }
  let s := (s.startFrame h x).bumpIndex h
  let r := s.stream h
  (s.setStream h { r with delivered := r.delivered + 1, gaps := 0 }).advancePosition h

/-- The starvation check (R149). -/
def State.starveCheck (s : State) (h : Handle) : State :=
  let r := s.stream h
  if r.state = .playing ∧ r.late = .skip ∧ s.tables.active.policy.starveLimit ≤ r.gaps then
    s.pauseFor h .starved .starved
  else s

/-- The counters of a gap: consecutive gaps rise under SKIP and saturate at 255 (R50, R148). -/
def Stream.countGap (r : Stream) : Stream :=
  { r with gapped := r.gapped + 1, gaps := if r.late = .skip then min 255 (r.gaps + 1) else r.gaps }

/-- The delivery event of a gapped head: index, counters, FG, the window's advance and top-up, and then the end of the
clip or the starvation check (R148). -/
def State.deliverGap (s : State) (h : Handle) (x : Slot) (cause : GapCause) : State :=
  let s := s.bumpIndex h
  let s := s.setStream h (s.stream h).countGap
  let s := s.placeControl (some h) (.fg ((s.stream h).owner.getD 0) h cause x.frame)
  let s := (((s.detachSlot h x.serial).advancePosition h).topUp h)
  if (s.stream h).state = .playing ∧ (s.window h).bare then s.endOfClip h else s.starveCheck h

/-- The decision at a due time that has been reached (R145, R146). -/
def State.decideDue (s : State) (h : Handle) : State :=
  match s.outcome h with
  | .wait => s.setCadence h { s.cadence h with nextDue := none, headWait := true }
  | .send x => s.deliverSent h x
  | .gap x cause => s.deliverGap h x cause

/-- The settlement of a wait, for a PLAYING stream whose head-wait flag is set (R147): a send or a gap takes a new
anchor now. -/
def State.settleWait (s : State) (h : Handle) : State :=
  if (s.stream h).state = .playing ∧ (s.cadence h).headWait then
    match s.outcome h with
    | .wait => s
    | .send x => (s.takeAnchor h s.now).deliverSent h x
    | .gap x cause => (s.takeAnchor h s.now).deliverGap h x cause
  else s

end Sys2Proof.Machine
end

