-- ==== Sys2Proof/Machine/Streams.lean ====
section
/-! DEFINITION. The stream controller's shared operations (chapter 2): priming and playing, closing, faulting,
re-binding, and what follows the end or the abandonment of a transmission. -/

namespace Sys2Proof.Machine

open Sys2Proof

/-! ## Entering PLAYING and completing priming (R39, R40, R68) -/

/-- A stream enters PLAYING, or PAUSED with reason SHED where a PAUSE mark holds it back (R40). The due time of index 0
is decided at once, after the SN (R143). -/
def State.enterPlaying (s : State) (h : Handle) : State :=
  let r := s.stream h
  if s.markedWith r .pause then
    if r.state = .paused ∧ r.pauseReason = some .shed then s else s.pauseFor h .shed .pausedShed
  else
    let s := s.setStream h { r with state := .playing, pauseReason := none, gaps := 0 }
    let s := s.setCadence h { s.cadence h with rate := s.boundRate (s.stream h) }
    ((s.takeAnchor h s.now).notify h .playing).decideDue h

/-- A PRIMING stream completes priming (R39). -/
def State.completePriming (s : State) (h : Handle) : State :=
  let r := s.stream h
  let s := s.setStream h { r with autoplay := false }
  if r.autoplay then s.enterPlaying h else (s.moveTo h .primed).notify h .primed

/-- The window of a PRIMING stream holds a slot and none of its slots is PENDING (R68). -/
def State.primingDone (s : State) (h : Handle) : Bool :=
  (s.stream h).state == .priming && !(s.window h).slots.isEmpty
    && (s.window h).slots.all (fun x => x.state != .pending)

/-- The check for priming complete (R68). -/
def State.reportPriming (s : State) (h : Handle) : State :=
  if s.primingDone h then s.completePriming h else s

/-- What follows a change of a stream's window: a PRIMING stream may complete priming (R68), and a wait of a PLAYING
stream may be settled (R147). -/
def State.windowChanged (s : State) (h : Handle) : State :=
  if (s.stream h).state = .priming then s.reportPriming h else s.settleWait h

/-- The streams given follow a change of their windows, in order. -/
def State.windowsChanged (s : State) : List Handle → State
  | [] => s
  | h :: t => (s.windowChanged h).windowsChanged t

/-- A stream enters PRIMING: the window is built from IDLE and re-targeted otherwise (R34, R35, R37). -/
def State.enterPriming (s : State) (h : Handle) (autoplay : Bool) : State :=
  let r := s.stream h
  let s := (s.setStream h { r with autoplay := autoplay }).moveTo h .priming
  if r.state = .idle then s.build h else s.retarget h

/-! ## Closing (R20, R38, R43, R48, R53) -/

/-- A record as it is cleared at CLOSED (R20, R175). -/
def Stream.cleared (r : Stream) : Stream :=
  { r with state := .closed, owner := none, binding := none, pauseReason := none, probe := none, probeExpiry := none,
           reservation := 0, credit := 0, gaps := 0, delivered := 0, gapped := 0, marks := 0, autoplay := false,
           noticeLost := false, withdrawn := false, demoted := false }

/-- A stream becomes CLOSED: its record is cleared, its cadence stops, and its cursor is exhausted (R20, R73). -/
def State.clearRecord (s : State) (h : Handle) : State :=
  ((s.setStream h (s.stream h).cleared).stopCadence h).setCursor h none

/-- Sends an SN to a station that may be absent. -/
def State.notifyOwner (s : State) (owner : Option Half) (h : Handle) (reason : Reason) : State :=
  match owner with
  | some dst => s.notifyTo dst h reason
  | none => s

/-- A CLOSING stream becomes CLOSED (R43): whatever slots it still holds are detached, the window's first, a DESIGN CHOICE
(notes/assumptions/30.md). -/
def State.completeClose (s : State) (h : Handle) : State :=
  let r := s.stream h
  (((s.detachWindow h).detachSending h).clearRecord h).notifyOwner r.owner h
    (if r.withdrawn then .withdrawn else .closed)

/-- A stream moves to CLOSING and its slots that are not SENDING are detached (R38, R48). -/
def State.beginClose (s : State) (h : Handle) (withdrawn : Bool) : State :=
  let s := s.setStream h { s.stream h with autoplay := false, probe := none, probeExpiry := none,
                                           withdrawn := withdrawn }
  (s.moveTo h .closing).detachWindow h

/-- A CLOSING stream that holds no SENDING slot becomes CLOSED (R43). -/
def State.finishClose (s : State) (h : Handle) : State :=
  if (s.stream h).state = .closing ∧ (s.window h).sending.isEmpty then s.completeClose h else s

/-- The frames of a stream are abandoned (R160): its delivery records go, and a segment of it in transmission runs to
its end. -/
def State.abandonFrames (s : State) (h : Handle) : State :=
  { s with tx := { s.tx with
      queue := s.tx.queue.filter (fun d => d.handle != h)
      current := match s.tx.current with
        | some d => if d.handle = h then none else some d
        | none => none
      sending := match s.tx.sending with
        | some (.segment d fd) =>
          if d.handle = h then some (.segment { d with abandoned := true } fd) else some (.segment d fd)
        | m => m } }

/-- A stream is closed at once, with an SN RESET where the floor link is UP (R53, R54). That its SENDING slots are detached
before its window is a DESIGN CHOICE (notes/assumptions/30.md), and so is that the abandonment of its frames runs none of
items 1 to 3 of R67 before the release: no close completes, nothing is topped up and no clip ends
(notes/assumptions/34.md). -/
def State.closeAtOnce (s : State) (h : Handle) : State :=
  let r := s.stream h
  if r.live then
    ((((s.abandonFrames h).detachSending h).detachWindow h).clearRecord h).notifyOwner r.owner h .reset
  else s

/-- Every live stream is closed at once (R53, R54). The rules give no order among the streams; that the list of handles is
taken in its order, and `handles` rises, is a DESIGN CHOICE (notes/assumptions/30.md). -/
def State.closeAll (s : State) : List Handle → State
  | [] => s
  | h :: t => (s.closeAtOnce h).closeAll t

/-! ## The end of a transmission (R67, R159) -/

/-- The transmission of a SENDING slot has ended: the slot is detached and its consequences follow (R67). -/
def State.transmissionEnded (s : State) (h : Handle) (serial : Nat) : State :=
  let s := s.detachSlot h serial
  match (s.stream h).state with
  | .closing => s.finishClose h
  | .priming => (s.topUp h).reportPriming h
  | .primed => s.topUp h
  | .playing =>
    let s := s.topUp h
    if (s.window h).bare then s.endOfClip h else s.settleWait h
  | .paused =>
    let s := s.topUp h
    if (s.window h).bare then s.endOfClip h else s
  | _ => s

/-! ## Faulting and re-binding (R44 to R48, R144) -/

/-- A stream enters FAULTED (R45, R175). That its SENDING slots are detached before its window is a DESIGN CHOICE
(notes/assumptions/30.md), and so is that it is FAULTED before its frames are abandoned, so that none of items 1 to 3 of
R67 follows (notes/assumptions/34.md). -/
def State.faultStream (s : State) (h : Handle) (reason : Reason) : State :=
  let s := (((s.moveTo h .faulted).abandonFrames h).detachSending h).detachWindow h
  let s := s.setCursor h none
  let s := s.setStream h { s.stream h with probe := none, probeExpiry := none, autoplay := false, marks := 0,
                                           demoted := false, reservation := 0 }
  s.notify h reason

/-- A stream leaves NEGOTIATING for IDLE on a rendition, and its SN is sent (R30, R31, R32, R47). -/
def State.endNegotiation (s : State) (h : Handle) (rendition : Rendition) (reason : Reason) : State :=
  let s := s.setStream h { s.stream h with rendition := rendition, probe := none, probeExpiry := none }
  ((s.moveTo h .idle).reserve h).notify h reason

/-- A change of rate at the re-bind of a PLAYING stream (R144). -/
def State.changeRate (s : State) (h : Handle) : State :=
  let c := s.cadence h
  let rate := s.boundRate (s.stream h)
  if (s.stream h).state = .playing ∧ c.rate ≠ rate then
    let s := s.setCadence h { c with rate := rate }
    match c.nextDue with
    | some due => s.takeAnchor h (max due s.now)
    | none => s
  else s

/-- Keeps a window whose geometry is unchanged by a re-bind, and rebuilds another (R47). -/
def State.keepOrRebuild (s : State) (h : Handle) (old : Option RenditionRecord) : State :=
  match old, s.boundRecord (s.stream h) with
  | some x, some y => if x.sameGeometry y then s else (s.rebuild h).windowChanged h
  | _, _ => (s.rebuild h).windowChanged h

/-- Re-binding to the active entry of the stream's clip (R47). -/
def State.rebind (s : State) (h : Handle) (c : Clip) (edition : Word) : State :=
  let r := s.stream h
  let wanted := reservationFor r.state r.effDepth r.rendition c
  if r.reservation < wanted ∧ s.fits r.reservation wanted = false then s.faultStream h .renditionWithdrawn
  else
    let old := s.boundRecord r
    let s := s.setStream h { r with binding := some (c.clipId, edition), reservation := wanted }
    if r.state = .negotiating then
      if c.proxy.isNone then s.endNegotiation h .primary .negotiated else s
    else if r.windowed then (s.changeRate h).keepOrRebuild h old
    else s

/-- A stream whose station is absent is closed with reason WITHDRAWN (R48). -/
def State.closeWithdrawn (s : State) (h : Handle) : State := (s.beginClose h true).finishClose h

/-- A stream's owner is present in the active station table. -/
def State.ownerPresent (s : State) (r : Stream) : Bool :=
  match r.owner with
  | none => false
  | some n => (s.tables.active.station n).isSome

/-- Settles a stream whose owner is present, by the rows of R44 after the first. -/
def State.settleBinding (s : State) (h : Handle) (r : Stream) : State :=
  match r.binding with
  | none => s
  | some (i, e) => match s.tables.active.clip i with
    | none => s.faultStream h .clipWithdrawn
    | some c => match c.record r.rendition with
      | none => s.faultStream h .renditionWithdrawn
      | some x =>
        if x.frameCount ≤ r.position then s.faultStream h .renditionWithdrawn
        else match c.edition with
          | none => s
          | some e' => if e' = e then s else s.rebind h c e'

/-- The stream controller's part in a visit of the commit walk (R44, R193). -/
def State.visit (s : State) (h : Handle) : State :=
  let r := s.stream h
  match r.state with
  | .closed => s
  | .closing => s
  | .faulted => if s.ownerPresent r then s else s.closeWithdrawn h
  | _ => if s.ownerPresent r then s.settleBinding h r else s.closeWithdrawn h

end Sys2Proof.Machine
end

