-- ==== Sys2Proof/Machine/Shed.lean ====
section
/-! DEFINITION. The pressure monitor and the shed controller (chapter 8): samples, transitions, trips, the three
actions on streams, and their reversal. -/

namespace Sys2Proof.Machine

open Sys2Proof

/-! ## The actions (R171 to R173) -/

/-- DEMOTE on a reached stream (R171, R32). -/
def State.demote (s : State) (h : Handle) : State :=
  let x := s.stream h
  match s.boundClip x with
  | none => s
  | some c =>
    if x.state = .closing ∨ x.rendition = .proxy ∨ c.proxy = none then s
    else if x.state = .negotiating then
      (s.setStream h { x with demoted := true }).endNegotiation h .proxy .demoted
    else
      let wanted := reservationFor x.state x.effDepth .proxy c
      if x.reservation < wanted ∧ s.fits x.reservation wanted = false then s
      else
        let s := s.setStream h { x with rendition := .proxy, reservation := wanted, demoted := true }
        ((s.rebuild h).notify h .demoted).windowChanged h

/-- SHALLOW on a reached stream (R172, R32, R71). -/
def State.shallow (s : State) (h : Handle) : State :=
  let x := s.stream h
  if x.state = .closing ∨ x.effDepth = halfDepth x.depth then s
  else
    let s := (s.setStream h { x with effDepth := halfDepth x.depth }).reserve h
    ((s.reduceWindow h).notify h .shallowed).reportPriming h

/-- PAUSE on a reached stream (R173). -/
def State.shedPause (s : State) (h : Handle) : State :=
  match (s.stream h).state with
  | .playing => s.pauseFor h .shed .pausedShed
  | .priming => (s.setStream h { s.stream h with autoplay := false }).pauseFor h .shed .pausedShed
  | _ => s

/-- A shed action on a reached stream. -/
def State.shedAct (s : State) (act : ShedAction) (h : Handle) : State :=
  match act with
  | .demote => s.demote h
  | .shallow => s.shallow h
  | .pause => s.shedPause h

/-! ## Trips (R169, R170) -/

/-- A rule reaches a stream: it is live, not FAULTED, and its owner belongs to one of the rule's classes (R170). -/
def State.reaches (s : State) (r : RuleNumber) (x : Stream) : Bool :=
  x.live && x.state != .faulted && s.inClass r x.owner

/-- Applies a rule to the streams given: the mark, and then the action (R170). -/
def State.applyRule (s : State) (r : RuleNumber) (act : ShedAction) : List Handle → State
  | [] => s
  | h :: t => ((s.setStream h ((s.stream h).addMark r)).shedAct act h).applyRule r act t

/-- A rule trips (R170). -/
def State.trip (s : State) (r : RuleNumber) : State :=
  let s := (s.setRule r .tripped).pushNotice (.shedTripped r (s.rule r).source)
  s.applyRule r (s.rule r).action (handles.filter (fun h => s.reaches r (s.stream h)))

/-- The rules given are evaluated in order: an ARMED rule whose source is at its match level trips (R169). -/
def State.evaluate (s : State) : List RuleNumber → State
  | [] => s
  | r :: t =>
    if s.ruleState r = .armed ∧ s.level (s.rule r).source = (s.rule r).level then (s.trip r).evaluate t
    else s.evaluate t

/-- A transition of a source: the rules of the source are evaluated in rule-number order (R169). -/
def State.transition (s : State) (src : Source) : State :=
  s.evaluate (ruleNumbers.filter (fun r => (s.rule r).source == src))

/-- Transitions in the order given. -/
def State.transitionAll (s : State) : List Source → State
  | [] => s
  | x :: t => (s.transition x).transitionAll t

/-- The six orders of the three comparators. -/
def sourceOrder (n : Fin 6) : List Source :=
  match n with
  | 0 => [.lat1, .lat2, .tags]
  | 1 => [.lat1, .tags, .lat2]
  | 2 => [.lat2, .lat1, .tags]
  | 3 => [.lat2, .tags, .lat1]
  | 4 => [.tags, .lat1, .lat2]
  | 5 => [.tags, .lat2, .lat1]

/-- The transitions of the comparators that one event has moved, in an order the manual leaves free (R163,
notes/assumptions/8.md). -/
def State.transitions (s : State) (moved : List Source) : State :=
  if moved.length ≤ 1 then s.transitionAll moved
  else
    State.transitionAll { s with choices := s.choices + 1 }
      ((sourceOrder (Config.transitionOrder s.choices)).filter (fun x => moved.contains x))

/-! ## Samples (R119, R163) -/

/-- The issued count: the number of held tags (R105). -/
def State.issuedCount (s : State) : Nat :=
  s.buffer.countSpans (fun x => match x.fetch with
    | none => false
    | some f => f.tag.isSome)

/-- TAGS takes one sample of the issued count (R119). -/
def State.sampleTags (s : State) : State :=
  let c := s.pressure.tags.sample s.tables.active.shed.tags s.issuedCount
  let moved := if c.level = s.pressure.tags.level then [] else [Source.tags]
  State.transitions { s with pressure := { s.pressure with tags := c } } moved

/-- The samples of a page completion: the service time to LAT1 and LAT2 and the issued count to TAGS (R111, R119). -/
def State.sampleCompletion (s : State) (service : Nat) : State :=
  let p := s.pressure
  let x := s.tables.active.shed
  let q : PressureMonitor := { lat1 := p.lat1.sample x.lat1 service, lat2 := p.lat2.sample x.lat2 service,
                               tags := p.tags.sample x.tags s.issuedCount }
  let moved := (if q.lat1.level = p.lat1.level then [] else [Source.lat1])
    ++ (if q.lat2.level = p.lat2.level then [] else [Source.lat2])
    ++ (if q.tags.level = p.tags.level then [] else [Source.tags])
  State.transitions { s with pressure := q } moved

/-- The quiesce state changes, and an entry into or exit from QUIESCED is a transition of its source (R135, R164). -/
def State.setQuiesce (s : State) (q : Quiesce) : State :=
  let before := s.level .quiesced
  let s := { s with array := { s.array with quiesce := q } }
  if s.level .quiesced = before then s else s.transition .quiesced

/-! ## Clearing (R177, R179 to R181) -/

/-- The reversal of DEMOTE (R179). -/
def State.promote (s : State) (h : Handle) : State :=
  let x := s.stream h
  match x.demoted, s.boundClip x with
  | true, some c =>
    let wanted := reservationFor x.state x.effDepth .primary c
    if wanted ≤ x.reservation ∨ s.fits x.reservation wanted = true then
      let s := s.setStream h { x with rendition := .primary, reservation := wanted, demoted := false }
      ((s.rebuild h).notify h .promoted).windowChanged h
    else (s.setStream h { x with demoted := false }).notify h .demoted
  | _, _ => s

/-- The reversal of SHALLOW: a depth restore (R180, R72). -/
def State.restoreDepth (s : State) (h : Handle) : State :=
  let x := s.stream h
  match s.boundClip x with
  | none => s
  | some c =>
    if x.effDepth < x.depth then
      let wanted := reservationFor x.state x.depth x.rendition c
      if s.fits x.reservation wanted then
        let s := s.setStream h { x with effDepth := x.depth, reservation := wanted }
        ((s.topUp h).notify h .restored).windowChanged h
      else s.notify h .shallowed
    else s

/-- The reversal of PAUSE (R181). -/
def State.resume (s : State) (h : Handle) : State :=
  let x := s.stream h
  if x.state = .paused ∧ x.pauseReason = some .shed then s.enterPlaying h else s

/-- The reversal of a shed action. -/
def State.unshed (s : State) (act : ShedAction) (h : Handle) : State :=
  match act with
  | .demote => s.promote h
  | .shallow => s.restoreDepth h
  | .pause => s.resume h

/-- A rule's mark leaves the streams given, and its action is reversed where it was the last of its kind (R177). -/
def State.unmark (s : State) (r : RuleNumber) (act : ShedAction) : List Handle → State
  | [] => s
  | h :: t =>
    if (s.stream h).marked r then
      let s := s.setStream h ((s.stream h).dropMark r)
      if (s.stream h).state = .closing ∨ s.markedWith (s.stream h) act = true then s.unmark r act t
      else (s.unshed act h).unmark r act t
    else s.unmark r act t

/-- The clear of a TRIPPED rule (R177). -/
def State.clearRule (s : State) (r : RuleNumber) : State :=
  (s.setRule r .armed).unmark r (s.rule r).action handles

/-- Some rule is TRIPPED (R178). -/
def State.anyTripped (s : State) : Bool := ruleNumbers.any (fun r => s.ruleState r == .tripped)

/-! ## The swap of a commit (R167) -/

/-- The pressure monitor and the shed controller at the swap: runs restart where settings changed, enabled rules become
ARMED and are evaluated, and the others become DISARMED (R167). -/
def State.rearm (s : State) (before : ShedSettings) : State :=
  let x := s.tables.active.shed
  let p := s.pressure
  let s := { s with
    pressure := { lat1 := p.lat1.swap before.lat1 x.lat1, lat2 := p.lat2.swap before.lat2 x.lat2,
                  tags := p.tags.swap before.tags x.tags }
    rules := x.rules.map (fun (y : ShedRule) => if y.enable then RuleState.armed else RuleState.disarmed) }
  s.evaluate ruleNumbers

end Sys2Proof.Machine
end

