-- ==== Sys2Proof/Machine/Fetch.lean ====
section
/-! DEFINITION. The fetch scheduler (chapter 5): the tag pool, issue and continuations, what block data, defers,
timeouts, quiesce and link loss do to a fetch, and what the outcome of a fill does to slots and streams. -/

namespace Sys2Proof.Machine

open Sys2Proof

/-! ## Tags (R105, R106) -/

/-- The span whose record holds a tag. -/
def SpanBuffer.holder (b : SpanBuffer) (i : TagIndex) : Option Nat :=
  match b.spans.find? (fun e => match e.2.fetch with
    | none => false
    | some f => f.tag == some i) with
  | none => none
  | some e => some e.1

/-- The value of a tag at its present generation (R103). -/
def State.tagValue (s : State) (i : TagIndex) : Nat := (s.fetch.generations[i]).toNat * 512 + i.1

/-- The span of the record for which a tag value is current (R106). -/
def State.currentTag (s : State) (v : Nat) : Option Nat :=
  let i : TagIndex := ⟨v % 512, Nat.mod_lt v (by decide)⟩
  if v ≤ 8191 ∧ s.tagValue i = v then s.buffer.holder i else none

/-- The lowest-numbered free tag (R103). -/
def State.freeTag (s : State) : Option TagIndex :=
  (List.finRange 512).find? (fun i => (s.buffer.holder i).isNone)

/-- Advances the generation of a tag that is freed (R106). -/
def State.advanceTag (s : State) (i : TagIndex) : State :=
  { s with fetch := { s.fetch with generations := s.fetch.generations.set i.1 (s.fetch.generations[i] + 1) i.2 } }

/-- Changes the running counts (R120). -/
def State.count (s : State) (f : FetchCounts → FetchCounts) : State :=
  { s with fetch := { s.fetch with counts := f s.fetch.counts } }

/-- Changes the fetch record of a FILLING span. -/
def State.mapFetch (s : State) (i : Nat) (f : Fetch → Fetch) : State :=
  match s.buffer.fetch i with
  | none => s
  | some x => s.putFetch i (f x)

/-! ## The fetch queue and issue (R101 to R103, R110) -/

/-- A QUEUED record stands before another: earlier deadline, then lower enqueue sequence (R101). -/
def Fetch.before (x y : Fetch) : Bool :=
  decide (x.deadline < y.deadline) || (x.deadline == y.deadline && decide (x.sequence.toNat < y.sequence.toNat))

/-- The span and record at the front of the fetch queue among the spans given, or the one given so far. -/
def queueFront (best : Option (Nat × Fetch)) : List (Nat × Span) → Option (Nat × Fetch)
  | [] => best
  | e :: t => match e.2.fetch with
    | none => queueFront best t
    | some f =>
      if f.state = .queued then
        match best with
        | none => queueFront (some (e.1, f)) t
        | some b => queueFront (some (if f.before b.2 then (e.1, f) else b)) t
      else queueFront best t

/-- The expiry of an attempt that goes out now (R103, R110). -/
def State.attemptExpiry (s : State) : Nat := s.now + s.tables.active.policy.readTimeout * 1000

/-- The BR of a record (R103, R110). -/
def ownRead (tag : Nat) (k : Key) (base : Nat) : OwnRead :=
  { tag := tag, volume := k.volume, count := 256 - base, start := 256 * k.page + base }

/-- Sends the continuation of a span's record, which leaves the continuation list (R110). -/
def State.sendContinuation (s : State) (i : Nat) (x : Span) (f : Fetch) (tag : TagIndex) : OwnRead × State :=
  let f' : Fetch := { f with waiting := false, check := 0, issueTime := some s.now, expiry := some s.attemptExpiry }
  let s := s.putSpan i { x with state := .filling f' }
  let s := { s with fetch := { s.fetch with continuations := s.fetch.continuations.filter (fun j => j != i) } }
  (ownRead (s.tagValue tag) x.key f.base, s.count (fun c => { c with continuations := c.continuations + 1 }))

/-- Issues the record of a span under a tag (R103). -/
def State.issue (s : State) (i : Nat) (x : Span) (f : Fetch) (tag : TagIndex) : OwnRead × State :=
  let f' : Fetch := { f with state := .issued, tag := some tag, received := 0, check := 0, issueTime := some s.now,
                             expiry := some s.attemptExpiry,
                             firstIssue := match f.firstIssue with
                               | none => some s.now
                               | some t => some t }
  let s := s.putSpan i { x with state := .filling f' }
  let s := s.count (fun c => { c with issues := c.issues + 1 })
  (ownRead (s.tagValue tag) x.key f.base, s.sampleTags)

/-- The fetch scheduler may issue a new read: the issue hold has ended (R102, R121). -/
def State.holdEnded (s : State) : Bool := s.fetch.holdUntil.isNone

/-- What the fetch scheduler does with a turn for a new read (R102, item 2). -/
def State.issueTurn (s : State) : Option (OwnRead × State) :=
  if s.holdEnded then
    match queueFront none s.buffer.spans, s.freeTag with
    | some (i, f), some tag => match s.buffer.span i with
      | none => none
      | some x => some (s.issue i x f tag)
    | _, _ => none
  else none

/-- What the fetch scheduler does with a turn for a read of the part's own (R102); the port offers one only while it is
OPEN and its link UP (R133). -/
def State.fetchTurn (s : State) : Option (OwnRead × State) :=
  match s.fetch.continuations with
  | [] => s.issueTurn
  | i :: _ => match s.buffer.span i with
    | none => none
    | some x => match x.fetch with
      | none => none
      | some f => match f.tag with
        | none => none
        | some tag => some (s.sendContinuation i x f tag)

/-! ## Leaving ISSUED (R84, R99, R106) -/

/-- The attempt of a record ends and its tag is freed: times absent, blocks no longer counted, off the continuation
list. The rule that asked for it decides what becomes of the record. -/
def State.release (s : State) (i : Nat) : State :=
  match s.buffer.fetch i with
  | none => s
  | some f =>
    let s := s.putFetch i { f with tag := none, received := 0, issueTime := none, expiry := none, waiting := false }
    let s := { s with fetch := { s.fetch with continuations := s.fetch.continuations.filter (fun j => j != i) } }
    match f.tag with
    | none => s
    | some tag => s.advanceTag tag

/-- Releases the records of several spans. -/
def State.releaseAll (s : State) : List Nat → State
  | [] => s
  | i :: t => (s.release i).releaseAll t

/-- One TAGS sample after an event that has freed the tags of the spans given (R119, notes/assumptions/17.md). -/
def State.sampleAfter (s : State) (spans : List Nat) : State := if spans.isEmpty then s else s.sampleTags

/-- Whether the span buffer lets a record go on: its span has a referrer (R84). -/
def Span.wanted (x : Span) : Bool := !x.refs.isEmpty

/-- A record that has left ISSUED enters the fetch queue, with a new enqueue sequence or the one it held (R101), or is
cancelled where its span has no referrers (R84). -/
def State.requeue (s : State) (fresh : Bool) (i : Nat) : State :=
  match s.buffer.span i with
  | none => s
  | some x =>
    if x.wanted then
      if fresh then
        State.nextSequence (s.mapFetch i (fun f => { f with state := .queued, sequence := s.fetch.enqueue }))
      else s.mapFetch i (fun f => { f with state := .queued })
    else s.freeSpan i

/-- Requeues the records of several spans under the sequences they held, in the order given. -/
def State.requeueAll (s : State) : List Nat → State
  | [] => s
  | i :: t => (s.requeue false i).requeueAll t

/-- The spans whose records hold a tag, by rising page index. -/
def SpanBuffer.issued (b : SpanBuffer) : List Nat :=
  (b.spans.filter (fun e => match e.2.fetch with
    | none => false
    | some f => f.tag.isSome)).map (fun e => e.1)

/-! ## Outcomes of a fill (R86 to R88) -/

/-- The streams of a referrer list, each once, in list order. -/
def streamsOf (refs : List Referrer) : List Handle := (refs.map Referrer.handle).eraseDups

/-- A fill completion of a span without REFILL (R86, R68). -/
def State.fillComplete (s : State) (i : Nat) (x : Span) (report : Bool) : State :=
  let s := s.putSpan i { x with state := .valid, checkFailed := report }
  if x.refs.isEmpty then s.restSpan i
  else (s.fillSlots report x.refs).windowsChanged (streamsOf x.refs)

/-- A fill completion of a span with REFILL, which discards the fill (R87, R111). -/
def State.refillDiscard (s : State) (i : Nat) (x : Span) : State :=
  let s := s.count (fun c => { c with refillDiscards := c.refillDiscards + 1 })
  let s := s.putSpan i { x with refill := false }
  let s := s.mapFetch i (fun f => { f with base := 0, received := 0, report := false, firstIssue := none })
  s.requeue true i

/-- A good attempt completes the page (R111). -/
def State.completePage (s : State) (i : Nat) (f : Fetch) : State :=
  let s := (s.release i).sampleCompletion (s.now - f.firstIssue.getD s.now)
  let s := s.count (fun c => { c with completions := c.completions + 1 })
  match s.buffer.span i with
  | none => s
  | some x => if x.refill then s.refillDiscard i x else s.fillComplete i x f.report

/-- A fill failure: the span is freed and its slots fail (R88, R69). -/
def State.fillFails (s : State) (i : Nat) (x : Span) : State :=
  ((s.freeSpan i).failSlots x.key x.refs).windowsChanged (streamsOf x.refs)

/-- A fetch fails at its retry limit (R114). -/
def State.fetchFails (s : State) (i : Nat) (x : Span) (checkCause : Bool) : State :=
  let s := s.pushNotice (if checkCause then .checkFailed x.key else .fetchFailed x.key)
  (s.count (fun c => { c with failures := c.failures + 1 })).fillFails i x

/-- A failed attempt (R113). -/
def State.failedAttempt (s : State) (i : Nat) (checkCause : Bool) : State :=
  let s := (s.release i).sampleTags
  let s := s.mapFetch i (fun f => { f with failures := f.failures + 1 })
  let s := s.count (fun c => { c with failedAttempts := c.failedAttempts + 1 })
  match s.buffer.span i with
  | none => s
  | some x => match x.fetch with
    | none => s
    | some f =>
      if s.tables.active.policy.retryLimit ≤ f.failures then s.fetchFails i x checkCause
      else s.requeue true i

/-! ## The drain of a quiesce (R118, R134, R135) -/

/-- A QG joins the array transmit queue, or waits in the port for a place (R135). -/
def State.placeGrant (s : State) : State :=
  let dst := s.array.asker.getD 0
  if s.arrayRoom then s.pushArray (.qg dst)
  else { s with array := { s.array with grantWaiting := some dst } }

/-- The report that the issued count is 0, taken while QUIESCING, ends the drain (R135). -/
def State.drainEnd (s : State) : State :=
  if s.array.quiesce = .quiescing ∧ s.issuedCount = 0 then (s.setQuiesce .quiesced).placeGrant else s

/-- The quiesce state has left OPEN: every record whose continuation waits returns (R118). -/
def State.leaveOpen (s : State) : State :=
  let spans := s.fetch.continuations
  ((s.releaseAll spans).sampleAfter spans).requeueAll spans

/-- The array link has gone down: every ISSUED record returns (R117). -/
def State.returnIssued (s : State) : State :=
  let spans := s.buffer.issued
  ((s.releaseAll spans).sampleAfter spans).requeueAll spans

/-! ## Block data (R107 to R110) -/

/-- A stale BD is discarded and counted (R107). -/
def State.staleReply (s : State) : State := s.count (fun c => { c with staleReplies := c.staleReplies + 1 })

/-- A short completion (R110, R118). -/
def State.shortCompletion (s : State) (i : Nat) (f : Fetch) : State :=
  let f' : Fetch := { f with base := f.base + f.received, received := 0, issueTime := none, expiry := none }
  if s.array.quiesce = .opened then
    let s := s.putFetch i { f' with waiting := true }
    { s with fetch := { s.fetch with continuations := s.fetch.continuations ++ [i] } }
  else (((s.putFetch i f').release i).sampleTags).requeue false i

/-- A good attempt: the page is complete, or the completion is short (R109). -/
def State.goodAttempt (s : State) (i : Nat) (f : Fetch) : State :=
  if f.base + f.received = 256 then s.completePage i f else s.shortCompletion i f

/-- A final BD that has been stored: the total and the check word (R109). -/
def State.finalBlock (s : State) (i : Nat) (x : Span) (f : Fetch) (total : Nat) (check : Word) : State :=
  if total ≠ f.received then s.failedAttempt i false
  else if check = f.check then s.goodAttempt i f
  else match s.tables.active.policy.checkMode with
    | .refetch => s.failedAttempt i true
    | .report =>
      let f' : Fetch := { f with report := true }
      let s := (s.putFetch i f').count (fun c => { c with mismatches := c.mismatches + 1 })
      (s.pushNotice (.checkFailed x.key)).goodAttempt i f'

/-- Bytes of buffer memory are written from an address on. -/
def State.store (s : State) (a : Nat) (bs : List Byte) : State :=
  { s with buffer := { s.buffer with memory := Memory.write s.buffer.memory a bs } }

/-- A BD of the current attempt is in order and well-shaped (R108, R207). -/
def blocksInOrder (f : Fetch) (offset count len : Nat) : Bool :=
  (count == 1 || count == 2) && len == 12 + 4096 * count && offset == f.base + f.received
    && decide (offset + count ≤ 256)

/-- A BD for the part (R107, R108). -/
def State.blockData (s : State) (len : Nat) (tag : Half) (offset count : Nat) (final : Bool) (total : Nat)
    (check : Word) (data : List Byte) : State :=
  match s.currentTag tag.toNat with
  | none => s.staleReply
  | some i => match s.buffer.span i with
    | none => s.staleReply
    | some x => match x.fetch with
      | none => s.staleReply
      | some f =>
        if f.waiting then s.staleReply
        else if blocksInOrder f offset count len then
          let blocks := data.take (4096 * count)
          let f' : Fetch := { f with received := f.received + count, check := extendCheck f.check blocks }
          let s := (s.store (blockAddress i offset) blocks).putSpan i { x with state := .filling f' }
          if final then s.finalBlock i x f' total check else s
        else s.failedAttempt i false

/-! ## Defers (R104, R112, R115) -/

/-- A record whose tag has been freed by a defer: its page is restarted, and it enters the deferred set, or the fetch
queue where the delay is 0, or is cancelled (R84, R112, R115). -/
def State.deferRecord (s : State) (delay i : Nat) : State :=
  match s.buffer.span i with
  | none => s
  | some x =>
    let restart (f : Fetch) : Fetch := { f with base := 0, received := 0, report := false }
    if x.wanted then
      if delay = 0 then (s.mapFetch i restart).requeue true i
      else s.mapFetch i (fun f => { restart f with state := .deferred, notBefore := some (s.now + delay) })
    else s.freeSpan i

/-- Defers the released records of several spans. -/
def State.deferRecords (s : State) (delay : Nat) : List Nat → State
  | [] => s
  | i :: t => (s.deferRecord delay i).deferRecords delay t

/-- A DF defers the records of the spans given (R115). -/
def State.deferSpans (s : State) (delay : Nat) (spans : List Nat) : State :=
  let s := (s.releaseAll spans).sampleAfter spans
  (s.count (fun c => { c with defers := c.defers + BitVec.ofNat 32 spans.length })).deferRecords delay spans

/-- The spans whose records a DF's tag field names (R115, R207): 0xFFFF is ALL. -/
def State.deferred (s : State) (tag : Half) : List Nat :=
  if tag = 0xFFFF then s.buffer.issued
  else match s.currentTag tag.toNat with
    | none => []
    | some i => match s.buffer.fetch i with
      | none => []
      | some f => if f.waiting then [] else [i]

/-- A DF for the part (R115, R207). -/
def State.deferReply (s : State) (len : Nat) (tag : Half) (delay : Nat) : State :=
  if len = 8 ∧ delay ≤ 1000000 then s.deferSpans delay (s.deferred tag) else s

/-! ## Timers (R104, R116) -/

/-- An attempt whose expiry has been reached times out (R116). -/
def State.timeOut (s : State) (tag : TagIndex) : State :=
  match s.buffer.holder tag with
  | none => s
  | some i => match s.buffer.fetch i with
    | none => s
    | some f => match f.expiry with
      | none => s
      | some e =>
        if e ≤ s.now then
          (s.count (fun c => { c with timeouts := c.timeouts + 1 })).failedAttempt i false
        else s

/-- A DEFERRED record whose not-before time has been reached enters the fetch queue (R104). -/
def State.endDefer (s : State) (i : Nat) : State :=
  match s.buffer.fetch i with
  | none => s
  | some f => match f.state, f.notBefore with
    | .deferred, some t =>
      if t ≤ s.now then
        State.nextSequence
          (s.putFetch i { f with state := .queued, notBefore := none, sequence := s.fetch.enqueue })
      else s
    | _, _ => s

/-! ## Counts (R120) -/

/-- The number of fetch records in a state. -/
def SpanBuffer.countFetches (b : SpanBuffer) (st : FetchState) : Nat :=
  b.countSpans (fun x => match x.fetch with
    | none => false
    | some f => f.state == st)

/-- The counts of READ FETCH COUNTS (R120). -/
def State.fetchReport (s : State) : FetchReport :=
  { queued := s.buffer.countFetches .queued, issued := s.issuedCount, deferred := s.buffer.countFetches .deferred,
    counts := s.fetch.counts }

end Sys2Proof.Machine
end

