-- ==== Sys2Proof/Machine/Answers.lean ====
section
/-! DEFINITION. Local answers (R92 to R94) and rewrite notices (R89 to R91). -/

namespace Sys2Proof.Machine

open Sys2Proof

/-! ## Local answers -/

/-- The running local answer with a serial number. -/
def State.localAnswer (s : State) (serial : Nat) : Option LocalAnswer :=
  s.buffer.answers.find? (fun a => a.serial == serial)

/-- Replaces a running local answer. -/
def State.setAnswer (s : State) (a : LocalAnswer) : State :=
  { s with buffer := { s.buffer with answers := s.buffer.answers.map (fun b => if b.serial = a.serial then a else b) } }

/-- The bytes of `n` blocks of a span from a block offset on. -/
def State.blocksOf (s : State) (span offset n : Nat) : List Byte :=
  (List.range n).flatMap (fun j => s.block span (offset + j))

/-- A span is STALE. -/
def State.isStale (s : State) (i : Nat) : Bool :=
  match s.buffer.span i with
  | none => false
  | some x => x.state == .stale

/-- The next BD of a local answer (R93). -/
def State.answerBlock (s : State) (a : LocalAnswer) : AnswerData :=
  let n := min 2 (a.count - a.handed)
  let final := a.handed + n == a.count
  { dst := a.station, src := a.target, tag := a.tag, offset := a.offset + a.handed, count := n, final := final,
    stale := final && s.isStale a.span, total := if final then a.count else 0,
    check := if final then extendCheck 0 (s.blocksOf a.span a.offset a.count) else 0,
    data := s.blocksOf a.span (a.offset + a.handed) n }

/-- A local answer hands its next BD to the floor transmitter and joins the turn list (R93, R157). -/
def State.handBlock (s : State) (a : LocalAnswer) : State :=
  let bd := s.answerBlock a
  (s.setAnswer { a with handed := a.handed + bd.count, ready := some bd }).joinTurns (.answer a.serial)

/-- The span of a local answer gains or loses a pin. -/
def State.setPins (s : State) (i : Nat) (f : Nat → Nat) : State :=
  match s.buffer.span i with
  | none => s
  | some x => s.putSpan i { x with pins := f x.pins }

/-- A local answer starts: its span is pinned and leaves the resting list, and its first BD is handed over (R92). -/
def State.startAnswer (s : State) (i : Nat) (r : BlockRead) (station target : Half) : State :=
  let a : LocalAnswer := { serial := s.buffer.nextAnswer, station := station, target := target, tag := r.tag,
                           span := i, offset := r.start % 256, count := r.count, handed := 0, ready := none }
  let s := s.setPins i (fun n => n + 1)
  let s := { s with buffer := { s.buffer with resting := s.buffer.resting.filter (fun j => j != i),
                                              answers := s.buffer.answers ++ [a],
                                              nextAnswer := s.buffer.nextAnswer + 1 } }
  s.handBlock a

/-- A local answer ends or is abandoned, and its pin is released (R94). -/
def State.endAnswer (s : State) (a : LocalAnswer) : State :=
  let s := { s with buffer := { s.buffer with
    answers := s.buffer.answers.filter (fun b => b.serial != a.serial) } }
  (s.setPins a.span (fun n => n - 1)).settleUse a.span

/-- Every running local answer is abandoned (R94, R139). That the list is taken in its order, oldest first, is a DESIGN
CHOICE (notes/assumptions/30.md). -/
def State.abandonAnswers (s : State) : List LocalAnswer → State
  | [] => s
  | a :: t => (s.endAnswer a).abandonAnswers t

/-- The span from which a read can be answered locally: VALID, not marked CHECK_FAILED, while fewer than 64 answers run
(R92). -/
def State.answerable (s : State) (r : BlockRead) : Option Nat :=
  match s.buffer.find { volume := r.volume, page := r.start / 256 } with
  | none => none
  | some i => match s.buffer.span i with
    | none => none
    | some x =>
      if x.state = .valid ∧ x.checkFailed = false ∧ s.buffer.answers.length < Config.maxAnswers then some i else none

/-- A station's BR is offered to the span buffer and is forwarded when it is declined (R92, R127, R206). -/
def State.offerRead (s : State) (f : Frame) : State :=
  match blockReadOf f with
  | none => s.forwardToArray f
  | some r => match s.answerable r with
    | none => s.forwardToArray f
    | some i => s.startAnswer i r (frameSrc f) (frameDst f)

/-! ## Rewrite notices -/

/-- A rewrite notice covers a key (R89). -/
def Rewrite.covers (w : Rewrite) (k : Key) : Bool :=
  k.volume == w.volume && decide (w.start / 256 ≤ k.page) && decide (k.page ≤ (w.start + w.count - 1) / 256)

/-- Places a span in a list sorted by the page it holds. -/
def insertByPage (e : Nat × Key) : List (Nat × Key) → List (Nat × Key)
  | [] => [e]
  | x :: t => if e.2.page ≤ x.2.page then e :: x :: t else x :: insertByPage e t

/-- The spans that the directory finds for the covered keys, by rising page number (notes/assumptions/13.md). -/
def State.covered (s : State) (w : Rewrite) : List (Nat × Key) :=
  (s.buffer.spans.filter (fun e => w.covers e.2.key && e.2.found)).foldr
    (fun e l => insertByPage (e.1, e.2.key) l) []

/-- A STALE span that nothing uses becomes FREE (R75, notes/assumptions/16.md). -/
def State.freeUnused (s : State) (i : Nat) : State :=
  match s.buffer.span i with
  | none => s
  | some x => if x.state = .stale ∧ x.refs = [] ∧ x.pins = 0 then s.freeSpan i else s

/-- The slots of a split span that are not SENDING move to a new span of the key, or wait for one (R90). -/
def State.moveUsers (s : State) (k : Key) (refs : List Referrer) : State :=
  match refs with
  | [] => s
  | _ :: _ => match s.allocate k refs with
    | some (j, s') => s'.moveSlots k (some j) refs
    | none => (s.waitFor k refs).moveSlots k none refs

/-- A VALID span in use is split (R90, R70). -/
def State.split (s : State) (i : Nat) (x : Span) : State :=
  let stays := x.refs.filter (fun r => r.sending)
  let moves := x.refs.filter (fun r => !r.sending)
  let s := (s.putSpan i { x with state := .stale, refs := stays }).staleSlots stays
  (s.moveUsers x.key moves).freeUnused i

/-- A rewrite notice acts on one span that the directory found for a covered key (R89). -/
def State.rewriteSpan (s : State) (i : Nat) (k : Key) : State :=
  match s.buffer.span i with
  | none => s
  | some x =>
    if x.key = k then
      match x.state with
      | .filling _ => s.putSpan i { x with refill := true }
      | .valid =>
        if x.refs = [] ∧ x.pins = 0 then
          State.freeSpan { s with buffer := { s.buffer with
            resting := s.buffer.resting.filter (fun j => j != i) } } i
        else s.split i x
      | .stale => s
    else s

/-- A rewrite notice acts on the spans given, in order. -/
def State.rewriteSpans (s : State) : List (Nat × Key) → State
  | [] => s
  | e :: t => (s.rewriteSpan e.1 e.2).rewriteSpans t

/-- The span buffer takes a rewrite notice as one event (R89). -/
def State.rewrite (s : State) (w : Rewrite) : State := s.rewriteSpans (s.covered w)

/-- The array port takes an RN: it is acted on, and forwarded unless it is addressed to the part (R126); one whose body
fails is discarded whole (R206). -/
def State.takeRewrite (s : State) (f : Frame) : State :=
  match rewriteOf f with
  | none => s
  | some w =>
    if frameDst f = s.straps.station then s.rewrite w else (s.rewrite w).forwardToFloor f

end Sys2Proof.Machine
end

