-- ==== Sys2Proof/Machine/Ports.lean ====
section
/-! DEFINITION. The two transmitters (R131 to R133, R152 to R157), the messages that join the array transmit queue,
and how a port takes a message from its link (R129, R203). -/

namespace Sys2Proof.Machine

open Sys2Proof

/-! ## The array transmitter -/

/-- The array transmitter is free (R131). -/
def State.arrayFree (s : State) : Bool := s.array.linkUp && !s.array.partnerHolds && s.array.sending.isNone

/-- A message starts on the array port. -/
def State.startArray (s : State) (m : ArrayMessage) (turn : ArrayTurn) : State :=
  { s with array := { s.array with sending := some m, turn := turn } }

/-- The front forwarded BR starts, if there is one (R132). -/
def State.startForwarded (s : State) (turn : ArrayTurn) : Option State :=
  match s.floor.toArray with
  | [] => none
  | f :: t => some (State.startArray { s with floor := { s.floor with toArray := t } } (.forwarded f) turn)

/-- A turn for a read of the part's own, offered only while the port is OPEN (R133). -/
def State.startOwn (s : State) (turn : ArrayTurn) : Option State :=
  if s.array.quiesce = .opened then
    match s.fetchTurn with
    | none => none
    | some (br, s') => some (s'.startArray (.read br) turn)
  else none

/-- The choice between the two classes of read (R132). -/
def State.startRead (s : State) : Option State :=
  match s.array.turn with
  | .own => (s.startOwn .forwarded).or (s.startForwarded .own)
  | .forwarded => (s.startForwarded .own).or (s.startOwn .forwarded)

/-- The array port's choice whenever its transmitter is free (R131). -/
def State.arrayChoose (s : State) : State :=
  if s.arrayFree then
    match s.array.control with
    | m :: t => State.startArray { s with array := { s.array with control := t } } (.control m) s.array.turn
    | [] => s.startRead.getD s
  else s

/-! ## Messages that join the array transmit queue -/

/-- A QG that waits in the port joins the queue when there is a place (R135). -/
def State.joinGrant (s : State) : State :=
  match s.array.grantWaiting with
  | some dst =>
    if s.arrayRoom then State.pushArray { s with array := { s.array with grantWaiting := none } } (.qg dst) else s
  | none => s

/-- A COMMIT's OK that waits in the responder joins the queue when there is a place (R195). -/
def State.joinAnswer (s : State) : State :=
  match s.responder.waiting with
  | some m =>
    if s.arrayRoom then State.pushArray { s with responder := { s.responder with waiting := none } } (.ma m) else s
  | none => s

/-- The message is an MN. -/
def ArrayControl.isNotice (m : ArrayControl) : Bool :=
  match m with
  | .mn _ _ => true
  | .ma _ => false
  | .qg _ => false

/-- The front notice is handed to the array port (R130, R199). -/
def State.handOver (s : State) : State :=
  match s.responder.notices with
  | [] => s
  | n :: t =>
    if s.array.linkUp && s.arrayRoom && !s.array.control.any ArrayControl.isNotice then
      State.pushArray { s with responder := { s.responder with notices := t, overflow := false } }
        (.mn n s.responder.overflow)
    else s

/-- The joins in their order: a waiting QG, a COMMIT's OK, an MN (R135, R195). -/
def State.joins (s : State) : State := s.joinGrant.joinAnswer.handOver

/-! ## The floor transmitter -/

/-- The floor transmitter is free (R156). -/
def State.floorFree (s : State) : Bool := s.floor.linkUp && !s.floor.partnerHolds && s.tx.sending.isNone

/-- The blocks of a slot's frame in frame order: span and block offset of each (R7, R154). -/
def Slot.places (x : Slot) : List (Nat × Nat) :=
  x.pages.flatMap (fun e => match e.span with
    | none => []
    | some i => (List.range e.count).map (fun j => (i, e.first + j)))

/-- The payload of segment `k` of a slot's frame (R154). -/
def State.payload (s : State) (x : Slot) (k : Nat) : List Byte :=
  ((x.places.drop (2 * k)).take 2).flatMap (fun p => s.block p.1 p.2)

/-- The next segment of a delivery record, its payload read as it starts (R154). -/
def State.segment (s : State) (d : Delivery) : FrameSegment :=
  let last := d.next + 1 == d.segments
  let fd (payload : List Byte) (stale failed : Bool) : FrameSegment :=
    { dst := d.dst, handle := d.handle, proxy := d.proxy, last := last, stale := last && stale,
      checkFailed := last && failed, index := d.next, count := d.segments, frame := d.frame,
      timecode := d.timecode, payload := payload }
  match (s.window d.handle).slot d.slot with
  | none => fd [] false false
  | some x => fd (s.payload x d.next) x.stale x.checkFailed

/-- A segment of a delivery record starts, and the record is the frame in transmission (R155). -/
def State.startSegment (s : State) (d : Delivery) (queue : List Delivery) (turn : FloorTurn) : State :=
  let d' : Delivery := { d with next := d.next + 1 }
  { s with tx := { s.tx with queue := queue, current := some d', turn := turn,
                             sending := some (.segment d' (s.segment d)) } }

/-- A frame segment starts, if one can be sent (R156). -/
def State.startFrameData (s : State) (turn : FloorTurn) : Option State :=
  match s.tx.current with
  | some d => if d.next < d.segments then some (s.startSegment d s.tx.queue turn) else none
  | none => match s.tx.queue with
    | [] => none
    | d :: t => some (s.startSegment d t turn)

/-- A block-data message starts, if one waits (R157). -/
def State.startBlockData (s : State) (turn : FloorTurn) : Option State :=
  match s.tx.turns with
  | [] => none
  | .forwarding :: rest => match s.array.toFloor with
    | [] => none
    | f :: t =>
      some { s with array := { s.array with toFloor := t }
                    tx := { s.tx with sending := some (.forwarded f), turn := turn
                                      turns := if t.isEmpty then rest else rest ++ [.forwarding] } }
  | .answer serial :: rest => match s.localAnswer serial with
    | none => none
    | some a => match a.ready with
      | none => none
      | some bd =>
        let s := s.setAnswer { a with ready := none }
        some { s with tx := { s.tx with sending := some (.answer serial bd), turn := turn, turns := rest } }

/-- The choice between frame data and block data (R156, items 2 and 3). -/
def State.startData (s : State) : Option State :=
  match s.tx.turn with
  | .frame => (s.startFrameData .block).or (s.startBlockData .frame)
  | .block => (s.startBlockData .frame).or (s.startFrameData .block)

/-- The floor transmitter's choice whenever it is free (R156). -/
def State.floorChoose (s : State) : State :=
  if s.floorFree then
    match s.tx.control with
    | m :: t => { s with tx := { s.tx with control := t, sending := some (.control m) } }
    | [] => s.startData.getD s
  else s

/-! ## The end of every event -/

/-- What follows in the same step as any event: waiting messages join the array transmit queue, and a free transmitter
chooses (R130, R131, R135, R156, R195; notes/assumptions/7.md, 11.md). -/
def State.settle (s : State) : State := (s.joins.arrayChoose).joins.floorChoose

/-! ## Taking a message from a link (R129, R203) -/

/-- A message waits on a port's link, behind those that wait there already. -/
def State.waitOnLink (s : State) (port : Port) (c : Instr) : State :=
  match port with
  | .array => { s with array := { s.array with onLink := s.array.onLink ++ [c] } }
  | .floor => { s with floor := { s.floor with onLink := s.floor.onLink ++ [c] } }

/-- The link of a port is UP. -/
def State.linkUp (s : State) (port : Port) : Bool :=
  match port with
  | .array => s.array.linkUp
  | .floor => s.floor.linkUp

/-- A port takes nothing from its link for now: it holds the link (R129), or earlier messages wait on it. -/
def State.waits (s : State) (port : Port) : Bool :=
  match port with
  | .array => s.arrayHolds || !s.array.onLink.isEmpty
  | .floor => s.floorHolds || !s.floor.onLink.isEmpty

/-- A message arrives on a port: nothing is taken from a link that is DOWN; a held message waits; a message from a
source that the port refuses is discarded (R203, check 4); any other is taken, has its effect, and the event settles. -/
def State.arrive (s : State) (port : Port) (c : Instr) (time : Nat) (src : Half) (effect : State → State) : State :=
  let s := s.stamp time
  if !s.linkUp port then s
  else if s.waits port then s.waitOnLink port c
  else if s.sourceOk port src then (effect s).settle
  else s

/-- A whole frame arrives on a port: it is taken where its header passes the checks (R203). -/
def State.arriveFrame (s : State) (port : Port) (c : Instr) (time : Nat) (f : Frame) (effect : State → State) : State :=
  let s := s.stamp time
  if !s.linkUp port then s
  else if s.waits port then s.waitOnLink port c
  else if s.headerOk port f then (effect s).settle
  else s

/-- An event other than an arrival: time is stamped, it has its effect, and the event settles. -/
def State.event (s : State) (time : Nat) (effect : State → State) : State := (effect (s.stamp time)).settle

end Sys2Proof.Machine
end

