-- ==== Sys2Proof/Machine/Formats.lean ====
section
/-! DEFINITION. Message formats (chapter 10): the frames that the part sends, byte by byte, and the command that an
arriving frame spells. -/

namespace Sys2Proof.Machine

open Sys2Proof

/-! ## Fields, most significant byte first (R202) -/

/-- A one-byte field. -/
def bytes1 (n : Nat) : List Byte := [BitVec.ofNat 8 n]
/-- A two-byte field. -/
def bytes2 (n : Nat) : List Byte := bytes1 (n / 256) ++ bytes1 n
/-- A four-byte field. -/
def bytes4 (n : Nat) : List Byte := bytes2 (n / 65536) ++ bytes2 n
/-- An eight-byte field. -/
def bytes8 (n : Nat) : List Byte := bytes4 (n / 4294967296) ++ bytes4 n
/-- `n` bytes sent as 0. -/
def zeros (n : Nat) : List Byte := List.replicate n 0
/-- A flag as a number. -/
def bit (b : Bool) : Nat := if b then 1 else 0

/-- An MRX frame: Ethernet addresses, Ethertype, MRX header and body, with the source station given (R202, R204). -/
def State.frame (s : State) (kind : Nat) (dst src : Half) (body : List Byte) : Frame :=
  List.replicate 6 0xFF ++ [0x02, 0x5A, 0, 0] ++ bytes2 s.straps.station.toNat ++ bytes2 s.straps.etherType.toNat
    ++ bytes1 kind ++ zeros 1 ++ bytes2 dst.toNat ++ bytes2 src.toNat ++ bytes2 body.length ++ body

/-! ## Codes (chapter 10.5) -/

/-- The code of an SA result. -/
def resultCode : StreamResult → Nat
  | .accepted => 0
  | .notAdmitted => 1
  | .stationLimit => 2
  | .noHandle => 3
  | .noSuchClip => 4
  | .noProxy => 5
  | .noBuffer => 6
  | .badField => 7
  | .badFrame => 8
  | .notOwner => 9
  | .notReady => 10
  | .closing => 11
  | .faulted => 12

/-- The code of a stream state. -/
def stateCode : StreamState → Nat
  | .closed => 0
  | .negotiating => 1
  | .idle => 2
  | .priming => 3
  | .primed => 4
  | .playing => 5
  | .paused => 6
  | .closing => 7
  | .faulted => 8

/-- The code of an SN reason. -/
def reasonCode : Reason → Nat
  | .opened => 1
  | .negotiated => 2
  | .primed => 3
  | .playing => 4
  | .pausedStation => 5
  | .pausedShed => 6
  | .starved => 7
  | .ended => 8
  | .closed => 9
  | .reset => 10
  | .withdrawn => 11
  | .clipWithdrawn => 12
  | .renditionWithdrawn => 13
  | .demoted => 14
  | .promoted => 15
  | .shallowed => 16
  | .restored => 17

/-- The code of an FG cause. -/
def causeCode : GapCause → Nat
  | .late => 1
  | .noCredit => 2
  | .readFailed => 3

/-- The code of an MA result. -/
def manageCode : ManageResult → Nat
  | .ok => 0
  | .busy => 1
  | .badField => 2
  | .shortExtents => 3
  | .full => 4
  | .noSuch => 5
  | .shedPending => 6
  | .stillMatching => 7
  | .ceiling => 8

/-- The code of a rule source. -/
def sourceCode : Source → Nat
  | .lat1 => 1
  | .lat2 => 2
  | .tags => 3
  | .quiesced => 4

/-- The code of a rendition. -/
def renditionCode : Rendition → Nat
  | .primary => 1
  | .proxy => 2

/-- The code of a choice. -/
def choiceCode : Choice → Nat
  | .primary => 1
  | .proxy => 2
  | .auto => 3

/-- The code of a late policy. -/
def lateCode : LatePolicy → Nat
  | .skip => 1
  | .stall => 2

/-- The code of a pause reason. -/
def pauseCode : PauseReason → Nat
  | .station => 1
  | .shed => 2
  | .starved => 3

/-- The code of the place where READ CLIP found an entry. -/
def foundCode : FoundIn → Nat
  | .active => 1
  | .staged => 2
  | .retired => 3

/-! ## Messages toward the floor -/

/-- The frame of a control message for a station (chapter 10.3). -/
def State.controlFrame (s : State) (m : FloorControl) : Frame :=
  match m with
  | .sa dst req handle result =>
    s.frame 0x11 dst s.straps.station
      (bytes4 req.toNat ++ bytes1 handle.toNat ++ bytes1 (resultCode result) ++ zeros 2)
  | .sn dst h state reason rendition lost position =>
    s.frame 0x12 dst s.straps.station
      (bytes1 h.1 ++ bytes1 (stateCode state) ++ bytes1 (reasonCode reason)
        ++ bytes1 (bit (rendition == .proxy) + 2 * bit lost) ++ bytes4 position)
  | .pb dst h number rate =>
    s.frame 0x13 dst s.straps.station (bytes1 h.1 ++ zeros 1 ++ bytes2 number.toNat ++ bytes8 rate)
  | .fg dst h cause frame =>
    s.frame 0x17 dst s.straps.station (bytes1 h.1 ++ bytes1 (causeCode cause) ++ zeros 2 ++ bytes4 frame)

/-- The frame of an FD segment (chapter 10.3). -/
def State.segmentFrame (s : State) (x : FrameSegment) : Frame :=
  s.frame 0x16 x.dst s.straps.station
    (bytes1 x.handle.1 ++ bytes1 (bit x.proxy + 2 * bit x.last + 4 * bit x.stale + 8 * bit x.checkFailed)
      ++ bytes2 x.index ++ bytes2 x.count ++ zeros 2 ++ bytes4 x.frame ++ bytes4 x.timecode ++ x.payload)

/-- The frame of a BD of a local answer, whose source is the destination of the station's BR (R93, R204). -/
def State.answerFrame (s : State) (x : AnswerData) : Frame :=
  s.frame 0x02 x.dst x.src
    (bytes2 x.tag.toNat ++ bytes1 x.offset ++ bytes1 x.count ++ bytes1 (bit x.final + 2 * bit x.stale) ++ zeros 1
      ++ bytes2 x.total ++ bytes4 x.check.toNat ++ x.data)

/-- The frame of a message in transmission on the floor port; a forwarded message is unchanged (R128). -/
def State.floorFrame (s : State) (m : FloorMessage) : Frame :=
  match m with
  | .control c => s.controlFrame c
  | .segment _ fd => s.segmentFrame fd
  | .forwarded f => f
  | .answer _ bd => s.answerFrame bd

/-! ## Messages toward the array -/

/-- A field that may be absent: 0xFFFFFFFF when it is (chapter 10.4). -/
def optional4 (x : Option Nat) : List Byte := bytes4 (x.getD 0xFFFFFFFF)

/-- A signed four-byte field. -/
def signed4 (z : Int) : List Byte := bytes4 (BitVec.ofInt 32 z).toNat

/-- A rendition record (chapter 10.4). -/
def RenditionRecord.bytes (x : RenditionRecord) : List Byte :=
  bytes1 x.volume ++ bytes1 x.pageBound ++ bytes1 x.extents.length ++ zeros 1 ++ bytes2 x.frameBlocks ++ zeros 2
    ++ bytes4 x.frameCount ++ x.extents.flatMap (fun e => bytes8 e.start ++ bytes4 e.pages)

/-- A clip entry (chapter 10.4). -/
def Clip.bytes (c : Clip) : List Byte :=
  bytes4 c.clipId.toNat
    ++ (match c.edition with
      | none => zeros 4
      | some e => bytes4 e.toNat)
    ++ bytes4 c.numerator ++ bytes2 c.denominator ++ bytes1 (bit c.proxy.isSome + 2 * bit c.edition.isSome)
    ++ zeros 1 ++ bytes4 c.firstTimecode ++ c.primary.bytes
    ++ (match c.proxy with
      | none => []
      | some x => x.bytes)

/-- The body of a READ STREAM answer on a live record (chapter 10.4). -/
def StreamReport.bytes (r : StreamReport) : List Byte :=
  let x := r.stream
  bytes1 (stateCode x.state) ++ bytes4 r.handle.1 ++ optional4 (x.owner.map BitVec.toNat)
    ++ optional4 (x.binding.map (fun b => b.1.toNat)) ++ optional4 (x.binding.map (fun b => b.2.toNat))
    ++ bytes4 (renditionCode x.rendition) ++ bytes4 (choiceCode x.choice) ++ bytes4 x.depth ++ bytes4 x.effDepth
    ++ bytes4 x.position ++ signed4 x.stride ++ bytes4 (lateCode x.late) ++ bytes4 (bit x.autoplay)
    ++ bytes4 x.credit ++ bytes4 x.reservation ++ bytes4 x.marks.toNat ++ optional4 (x.pauseReason.map pauseCode)
    ++ bytes4 x.gaps ++ bytes4 x.delivered.toNat ++ bytes4 x.gapped.toNat ++ optional4 (x.probe.map BitVec.toNat)
    ++ bytes4 (bit x.noticeLost) ++ bytes4 r.pending ++ bytes4 r.ready ++ bytes4 r.failed ++ bytes4 r.sending
    ++ bytes4 r.sum ++ bytes4 r.ceiling

/-- The body of an MA from byte 12 on (chapter 10.4). -/
def AnswerBody.bytes (b : AnswerBody) : List Byte :=
  match b with
  | .empty => []
  | .clip found entry => bytes1 (foundCode found) ++ zeros 3 ++ entry.bytes
  | .closedStream => bytes1 (stateCode .closed)
  | .stream report => report.bytes
  | .spanCounts c =>
    bytes4 c.free ++ bytes4 c.filling ++ bytes4 c.referenced ++ bytes4 c.resting ++ bytes4 c.stale ++ bytes4 c.waiting
  | .fetchCounts r =>
    bytes4 r.queued ++ bytes4 r.issued ++ bytes4 r.deferred ++ bytes4 r.counts.issues.toNat
      ++ bytes4 r.counts.continuations.toNat ++ bytes4 r.counts.completions.toNat
      ++ bytes4 r.counts.failedAttempts.toNat ++ bytes4 r.counts.timeouts.toNat ++ bytes4 r.counts.defers.toNat
      ++ bytes4 r.counts.failures.toNat ++ bytes4 r.counts.staleReplies.toNat ++ bytes4 r.counts.mismatches.toNat
      ++ bytes4 r.counts.refillDiscards.toNat

/-- The body of an MN (chapter 10.3): notice, flags, rule, source, volume and page number. -/
def Notice.bytes (n : Notice) (overflow : Bool) : List Byte :=
  match n with
  | .ready => bytes1 1 ++ bytes1 (bit overflow) ++ zeros 10
  | .shedTripped r src =>
    bytes1 2 ++ bytes1 (bit overflow) ++ bytes1 r.1 ++ bytes1 (sourceCode src) ++ zeros 8
  | .checkFailed k => bytes1 3 ++ bytes1 (bit overflow) ++ zeros 2 ++ bytes1 k.volume ++ zeros 3 ++ bytes4 k.page
  | .fetchFailed k => bytes1 4 ++ bytes1 (bit overflow) ++ zeros 2 ++ bytes1 k.volume ++ zeros 3 ++ bytes4 k.page

/-- The frame of a control message for the array (chapter 10.2 to 10.4). -/
def State.arrayControlFrame (s : State) (m : ArrayControl) : Frame :=
  match m with
  | .ma x =>
    s.frame 0x09 x.dst s.straps.station
      (bytes4 x.req.toNat ++ bytes1 x.verb.toNat ++ bytes1 (manageCode x.result)
        ++ bytes1 (if x.walking then 2 else 1) ++ zeros 1 ++ bytes4 x.generation.toNat ++ x.body.bytes)
  | .mn n overflow => s.frame 0x0A 0xFFFF s.straps.station (n.bytes overflow)
  | .qg dst => s.frame 0x07 dst s.straps.station []

/-- The frame of a message in transmission on the array port. -/
def State.arrayFrame (s : State) (m : ArrayMessage) : Frame :=
  match m with
  | .control c => s.arrayControlFrame c
  | .read br =>
    s.frame 0x01 0 s.straps.station
      (bytes2 br.tag ++ bytes1 br.volume ++ zeros 1 ++ bytes2 br.count ++ zeros 2 ++ bytes8 br.start)
  | .forwarded f => f

/-! ## The command that an arriving frame spells (R125, R127) -/

/-- The arrival data of a frame. -/
def arrivalOf (t : Nat) (f : Frame) : Arrival := { time := t, src := frameSrc f, len := frameLen f }

/-- The command of an SQ (chapter 10.3, R208); none for one whose body is shorter than 8 bytes. -/
def stationCommand (a : Arrival) (b : List Byte) : Option Instr :=
  let req := word32 b 0
  let handle := byteAt b 5
  if a.len < 8 then none
  else some (match (byteAt b 4).toNat with
    | 1 => .openStream a req (word32 b 8) (byteAt b 12) (byteAt b 13) (byteAt b 14)
    | 2 => .prime a req handle (word32 b 8) (byteAt b 12)
    | 3 => .start a req handle (word32 b 8) (byteAt b 12)
    | 4 => .play a req handle
    | 5 => .pause a req handle
    | 6 => .seek a req handle (word32 b 8) (byteAt b 12)
    | 7 => .close a req handle
    | _ => .unknownStationVerb a req (byteAt b 4) handle)

/-- The rendition record at byte `o` of a body. -/
def renditionAt (b : List Byte) (o : Nat) : RenditionOffer :=
  let n := (byteAt b (o + 2)).toNat
  { volume := byteAt b o, extentCount := byteAt b (o + 2), frameBlocks := half16 b (o + 4),
    frameCount := word32 b (o + 8),
    extents := (List.range (if n ≤ 64 then n else 0)).map (fun k =>
      { start := long64 b (o + 12 + 12 * k), pages := word32 b (o + 20 + 12 * k) }) }

/-- The clip entry that STAGE CLIP carries from byte 8 on. -/
def clipAt (b : List Byte) : ClipOffer :=
  let x := renditionAt b 28
  { clipId := word32 b 8, numerator := word32 b 16, denominator := half16 b 20, firstTimecode := word32 b 24,
    primary := x,
    proxy := if (byteAt b 22).getLsbD 0 then some (renditionAt b (28 + recordBytes x.extentCount.toNat)) else none }

/-- The policy record that STAGE POLICY carries. -/
def policyAt (b : List Byte) : PolicyOffer :=
  { retryLimit := byteAt b 8, checkMode := byteAt b 9, starveLimit := byteAt b 10, readTimeout := half16 b 12,
    probeWindow := byteAt b 14, guardTime := byteAt b 15, ceiling := word32 b 16 }

/-- The rule and comparator settings that STAGE RULE carries. -/
def ruleAt (b : List Byte) : RuleOffer :=
  { rule := byteAt b 8, enable := byteAt b 9, source := byteAt b 10, level := byteAt b 11, action := byteAt b 12,
    classes := byteAt b 13, comparator := byteAt b 14, debounce := byteAt b 15, high := word32 b 16,
    low := word32 b 20 }

/-- The command of an MQ (chapter 10.4, R209); none for one whose body is shorter than 8 bytes. -/
def manageCommand (a : Arrival) (b : List Byte) : Option Instr :=
  let req := word32 b 0
  if a.len < 8 then none
  else some (match (byteAt b 4).toNat with
    | 1 => .stageClip a req (clipAt b)
    | 2 => .unstageClip a req (word32 b 8)
    | 3 => .stageStation a req (half16 b 8) (byteAt b 10) (byteAt b 11)
    | 4 => .unstageStation a req (half16 b 8)
    | 5 => .stagePolicy a req (policyAt b)
    | 6 => .stageRule a req (ruleAt b)
    | 7 => .discardStage a req
    | 8 => .commit a req
    | 9 => .clearShed a req (byteAt b 8)
    | 10 => .readClip a req (word32 b 8) (byteAt b 12) (byteAt b 13) (word32 b 16)
    | 11 => .readStream a req (byteAt b 8)
    | 12 => .readSpanCounts a req
    | 13 => .readFetchCounts a req
    | 14 => .resetStreams a req
    | 15 => .resetPart a req
    | _ => .unknownManageVerb a req (byteAt b 4))

/-- The command of a frame taken on the floor port (R127); none for one that is discarded. -/
def State.floorCommand (s : State) (t : Nat) (f : Frame) : Option Instr :=
  let a := arrivalOf t f
  let b := frameBody f
  let own := frameDst f == s.straps.station
  match (frameKind f).toNat with
  | 0x01 => if own then none else some (.stationBlockRead t f)
  | 0x10 => if own then stationCommand a b else none
  | 0x14 => if own then some (.probeReply a (byteAt b 0) (byteAt b 1) (half16 b 2)) else none
  | 0x15 => if own then some (.creditGrant a (byteAt b 0) (byteAt b 1)) else none
  | _ => none

/-- The command of a frame taken on the array port (R125); none for one that is discarded. -/
def State.arrayCommand (s : State) (t : Nat) (f : Frame) : Option Instr :=
  let a := arrivalOf t f
  let b := frameBody f
  let own := frameDst f == s.straps.station
  match (frameKind f).toNat with
  | 0x02 =>
    if own then some (.blockDataForPart a (half16 b 0) (byteAt b 2) (byteAt b 3) ((byteAt b 4).getLsbD 0)
      (half16 b 6) (word32 b 8) (b.drop 12))
    else some (.forwardedArrayMessage t f)
  | 0x03 => if own then some (.deferForPart a (half16 b 0) (word32 b 4)) else some (.forwardedArrayMessage t f)
  | 0x04 => some (.rewriteNotice t f)
  | 0x05 => if own then some (.quiesceRequest a) else none
  | 0x06 => if own then some (.quiesceEnd a) else none
  | 0x08 => if own then manageCommand a b else none
  | _ => none

/-- The command that a frame arriving on a port spells; none for one that the port discards (R125, R127, R203). -/
def State.commandOf (s : State) (port : Port) (t : Nat) (f : Frame) : Option Instr :=
  if s.headerOk port f then
    match port with
    | .floor => s.floorCommand t f
    | .array => s.arrayCommand t f
  else none

end Sys2Proof.Machine
end

