-- ==== Sys2Proof/Machine/StationVerbs.lean ====
section
/-! DEFINITION. The station verbs: OPEN (R24 to R27, R29) and the verbs on an open stream (R33 to R38), with the
unknown verb (R208). -/

namespace Sys2Proof.Machine

open Sys2Proof

/-- What a step of the part answers: the manual gives every step an effect, so it is always a next state. -/
abbrev Answer := Host.Outcome State Fault Refusal

/-- An SQ whose body is too short for a request number and verb is discarded (R208). -/
def State.readable (s : State) (a : Arrival) (effect : State → State) : State :=
  if a.len < 8 then s else effect s

/-! ## OPEN -/

/-- The fields of an OPEN, or none where they fail check 2 of R24 (R208): choice, late policy and depth. -/
def openFields (len : Nat) (clip : Word) (choice depth late : Byte) : Option (Choice × LatePolicy × Nat) :=
  if len = 16 ∧ clip ≠ 0 ∧ depth.toNat ≤ Config.maxDepth then
    match choiceOf choice, lateOf late with
    | some c, some l => some (c, l, if depth = 0 then Config.defaultDepth else depth.toNat)
    | _, _ => none
  else none

/-- The state and rendition of a new stream by the table of R26, or none where its reservation does not fit; `demote`
says that a DEMOTE rule applies and `d` is the effective depth. -/
def State.placement (s : State) (demote : Bool) (c : Clip) (choice : Choice) (d : Nat) :
    Option (StreamState × Rendition) :=
  let onPrimary : Option (StreamState × Rendition) :=
    if s.fits 0 (reservationFor .idle d .primary c) then some (.idle, .primary) else none
  let onProxy : Option (StreamState × Rendition) :=
    if s.fits 0 (reservationFor .idle d .proxy c) then some (.idle, .proxy) else none
  match c.proxy, choice with
  | none, .proxy => none
  | none, .primary => onPrimary
  | none, .auto => onPrimary
  | some _, .proxy => onProxy
  | some _, .primary => if demote then onProxy else onPrimary
  | some _, .auto =>
    if demote then onProxy
    else if s.fits 0 (reservationFor .negotiating d .primary c) then some (.negotiating, .primary)
    else onProxy.or onPrimary

/-- The depth that an OPEN gives a stream: halved where a SHALLOW rule applies (R27). -/
def State.openDepth (s : State) (station : Half) (depth : Nat) : Nat :=
  if s.shedsAtOpen station .shallow then halfDepth depth else depth

/-- The record of a new stream (R25, R26, R27, R175). -/
def State.newStream (s : State) (station : Half) (c : Clip) (edition : Word) (choice : Choice) (late : LatePolicy)
    (depth : Nat) (st : StreamState) (r : Rendition) : Stream :=
  let d := s.openDepth station depth
  { state := st, owner := some station, binding := some (c.clipId, edition), rendition := r, choice := choice,
    depth := depth, effDepth := d, position := 0, stride := 1, late := late, autoplay := false, credit := 0,
    reservation := reservationFor st d r c, marks := s.marksAtOpen station, pauseReason := none, gaps := 0,
    delivered := 0, gapped := 0, probe := none, probeExpiry := none, noticeLost := false, withdrawn := false,
    demoted := choice != .proxy && r == .proxy && s.shedsAtOpen station .demote }

/-- A new stream in NEGOTIATING draws a probe number, sends its PB and starts its timer (R29). -/
def State.startProbe (s : State) (h : Handle) (c : Clip) : State :=
  let r := s.stream h
  let expiry := s.now + s.tables.active.policy.probeWindow * 1000
  let s' := s.setStream h { r with probe := some s.probes, probeExpiry := some expiry }
  State.placeControl { s' with probes := s.probes + 1 } (some h)
    (.pb (r.owner.getD 0) h s.probes c.primaryRate)

/-- An accepted OPEN on the record of a handle (R25). -/
def State.openAt (s : State) (station : Half) (req : Word) (h : Handle) (c : Clip) (r : Stream) : State :=
  let s := (s.setStream h r).answer station req (BitVec.ofNat 8 h.1) .accepted
  if r.state = .negotiating then s.startProbe h c else s.notify h .opened

/-- The lowest-numbered CLOSED record (R25). -/
def State.closedHandle (s : State) : Option Handle := handles.find? (fun h => !(s.stream h).live)

/-- Refuses an OPEN (R24). -/
def State.refuseOpen (s : State) (station : Half) (req : Word) (result : StreamResult) : State :=
  s.answer station req 0xFF result

/-- The checks 3 to 7 of an OPEN and its acceptance (R24 to R26). -/
def State.openWith (s : State) (station : Half) (limit : Nat) (req clip : Word) (choice : Choice) (late : LatePolicy)
    (depth : Nat) : State :=
  if limit ≤ s.liveCount station then s.refuseOpen station req .stationLimit
  else match s.closedHandle with
    | none => s.refuseOpen station req .noHandle
    | some h => match s.tables.active.clip clip with
      | none => s.refuseOpen station req .noSuchClip
      | some c =>
        if choice = .proxy ∧ c.proxy = none then s.refuseOpen station req .noProxy
        else match s.placement (s.shedsAtOpen station .demote) c choice (s.openDepth station depth) with
          | none => s.refuseOpen station req .noBuffer
          | some (st, r) =>
            s.openAt station req h c (s.newStream station c (c.edition.getD 0) choice late depth st r)

/-- OPEN (R24). -/
def State.openVerb (s : State) (a : Arrival) (req clip : Word) (choice depth late : Byte) : State :=
  match s.tables.active.station a.src with
  | none => s.refuseOpen a.src req .notAdmitted
  | some e => match openFields a.len clip choice depth late with
    | none => s.refuseOpen a.src req .badField
    | some (c, l, d) => s.openWith a.src e.limit req clip c l d

/-- OPEN: R24 to R27, R29. -/
def execOpenStream (a : Arrival) (req clip : Word) (choice depth late : Byte) (s : State) : Answer :=
  .next (s.arrive .floor (.openStream a req clip choice depth late) a.time a.src
    (fun s => s.readable a (fun s => s.openVerb a req clip choice depth late)))

/-! ## The verbs on an open stream -/

/-- Checks 1 and 2 of R33, which CLOSE passes in every live state: the stream that a station names and owns. -/
def State.owned (s : State) (src : Half) (handle : Byte) (lenOk : Bool) : Except StreamResult Handle :=
  if lenOk then
    match handleOf handle with
    | none => .error .badField
    | some h => if (s.stream h).live = true ∧ (s.stream h).owner = some src then .ok h else .error .notOwner
  else .error .badField

/-- Checks 3 to 5 of R33. -/
def usable (st : StreamState) : Except StreamResult Unit :=
  match st with
  | .faulted => .error .faulted
  | .closing => .error .closing
  | .negotiating => .error .notReady
  | _ => .ok ()

/-- Checks 1 to 5 of R33 on a verb other than CLOSE. -/
def State.firstChecks (s : State) (src : Half) (handle : Byte) (lenOk : Bool) : Except StreamResult Handle :=
  match s.owned src handle lenOk with
  | .error e => .error e
  | .ok h => match usable (s.stream h).state with
    | .error e => .error e
    | .ok _ => .ok h

/-- Checks 1 to 7 of R33 on a verb that gives a frame and a step. -/
def State.admitFrame (s : State) (src : Half) (handle : Byte) (lenOk strideFits : Bool) (frame : Word) :
    Except StreamResult Handle :=
  match s.firstChecks src handle lenOk with
  | .error e => .error e
  | .ok h =>
    if strideFits then
      if frame.toNat < s.frameCount (s.stream h) then .ok h else .error .badFrame
    else .error .badField

/-- A verb that the checks have settled is refused with their result, or has its effect (R33). -/
def State.judge (s : State) (a : Arrival) (req : Word) (handle : Byte) (checked : Except StreamResult Handle)
    (effect : Handle → State) : State :=
  match checked with
  | .error e => s.answer a.src req handle e
  | .ok h => effect h

/-- Moves a stream to a frame in PRIMING; the SA precedes the SN of a priming that completes at once (R34, R37). -/
def State.moveStream (s : State) (a : Arrival) (req : Word) (handle : Byte) (h : Handle) (frame : Word) (stride : Int)
    (autoplay : Bool) : State :=
  let s := s.setStream h { s.stream h with position := frame.toNat, stride := stride }
  ((s.enterPriming h autoplay).answer a.src req handle .accepted).reportPriming h

/-- PRIME: R34, with the autoplay flag clear. -/
def execPrime (a : Arrival) (req : Word) (handle : Byte) (frame : Word) (stride : Byte) (s : State) : Answer :=
  .next (s.arrive .floor (.prime a req handle frame stride) a.time a.src (fun s => s.readable a (fun s =>
    s.judge a req handle (s.admitFrame a.src handle (a.len == 16) (strideOk (strideOf stride)) frame)
      (fun h => s.moveStream a req handle h frame (strideOf stride) false))))

/-- START: R34, with the autoplay flag set. -/
def execStart (a : Arrival) (req : Word) (handle : Byte) (frame : Word) (stride : Byte) (s : State) : Answer :=
  .next (s.arrive .floor (.start a req handle frame stride) a.time a.src (fun s => s.readable a (fun s =>
    s.judge a req handle (s.admitFrame a.src handle (a.len == 16) (strideOk (strideOf stride)) frame)
      (fun h => s.moveStream a req handle h frame (strideOf stride) true))))

/-- The effect of PLAY by the stream's state (R35). -/
def State.playStream (s : State) (a : Arrival) (req : Word) (handle : Byte) (h : Handle) : State :=
  match (s.stream h).state with
  | .idle => ((s.enterPriming h true).answer a.src req handle .accepted).reportPriming h
  | .priming => (s.setStream h { s.stream h with autoplay := true }).answer a.src req handle .accepted
  | .primed => (s.answer a.src req handle .accepted).enterPlaying h
  | .paused => (s.answer a.src req handle .accepted).enterPlaying h
  | _ => s.answer a.src req handle .accepted

/-- PLAY: R35. -/
def execPlay (a : Arrival) (req : Word) (handle : Byte) (s : State) : Answer :=
  .next (s.arrive .floor (.play a req handle) a.time a.src (fun s => s.readable a (fun s =>
    s.judge a req handle (s.firstChecks a.src handle (a.len == 8)) (fun h => s.playStream a req handle h))))

/-- The effect of PAUSE by the stream's state (R36). -/
def State.pauseStream (s : State) (a : Arrival) (req : Word) (handle : Byte) (h : Handle) : State :=
  match (s.stream h).state with
  | .playing => (s.answer a.src req handle .accepted).pauseFor h .station .pausedStation
  | .priming => (s.setStream h { s.stream h with autoplay := false }).answer a.src req handle .accepted
  | .paused =>
    if (s.stream h).pauseReason = some .station then s.answer a.src req handle .accepted
    else (s.answer a.src req handle .accepted).pauseFor h .station .pausedStation
  | _ => s.answer a.src req handle .accepted

/-- PAUSE: R36. -/
def execPause (a : Arrival) (req : Word) (handle : Byte) (s : State) : Answer :=
  .next (s.arrive .floor (.pause a req handle) a.time a.src (fun s => s.readable a (fun s =>
    s.judge a req handle (s.firstChecks a.src handle (a.len == 8)) (fun h => s.pauseStream a req handle h))))

/-- The autoplay flag that a SEEK leaves (R37). -/
def seekAutoplay (r : Stream) : Bool :=
  match r.state with
  | .playing => true
  | .priming => r.autoplay
  | _ => false

/-- The step that a SEEK leaves: 0 means that none is given (R208). -/
def seekStride (r : Stream) (z : Int) : Int := if z = 0 then r.stride else z

/-- SEEK: R37. -/
def execSeek (a : Arrival) (req : Word) (handle : Byte) (frame : Word) (stride : Byte) (s : State) : Answer :=
  .next (s.arrive .floor (.seek a req handle frame stride) a.time a.src (fun s => s.readable a (fun s =>
    s.judge a req handle
      (s.admitFrame a.src handle (a.len == 16) (stride == 0 || strideOk (strideOf stride)) frame)
      (fun h => s.moveStream a req handle h frame (seekStride (s.stream h) (strideOf stride))
        (seekAutoplay (s.stream h))))))

/-- The effect of CLOSE by the stream's state (R38). -/
def State.closeStream (s : State) (a : Arrival) (req : Word) (handle : Byte) (h : Handle) : State :=
  if (s.stream h).state = .closing then s.answer a.src req handle .accepted
  else ((s.beginClose h false).answer a.src req handle .accepted).finishClose h

/-- CLOSE: R38. -/
def execClose (a : Arrival) (req : Word) (handle : Byte) (s : State) : Answer :=
  .next (s.arrive .floor (.close a req handle) a.time a.src (fun s => s.readable a (fun s =>
    s.judge a req handle (s.owned a.src handle (a.len == 8)) (fun h => s.closeStream a req handle h))))

/-- An SQ whose verb is none of the seven: R208, check 1 of R33. -/
def execUnknownStationVerb (a : Arrival) (req : Word) (verb handle : Byte) (s : State) : Answer :=
  .next (s.arrive .floor (.unknownStationVerb a req verb handle) a.time a.src (fun s => s.readable a (fun s =>
    s.answer a.src req handle .badField)))

end Sys2Proof.Machine
end

