-- ==== Sys2Proof/Machine/FloorMessages.lean ====
section
/-! DEFINITION. The other messages taken on the floor port: PY (R30), CG (R49), a station's BR (R92, R127), and the
frames that a port discards (R203). -/

namespace Sys2Proof.Machine

open Sys2Proof

/-- The rendition that a PY's verdict chooses; any other verdict is malformed (R30, R208). -/
def verdictOf (b : Byte) : Option Rendition :=
  if b = 1 then some .primary else if b = 2 then some .proxy else none

/-- A PY matches a stream: NEGOTIATING, owned by its source, and waiting for its probe number (R30). -/
def Stream.probeMatches (r : Stream) (src : Half) (number : Half) : Bool :=
  r.state == .negotiating && r.owner == some src && r.probe == some number

/-- The effect of a PY (R30). -/
def State.takeProbeReply (s : State) (a : Arrival) (handle verdict : Byte) (number : Half) : State :=
  match handleOf handle, verdictOf verdict with
  | some h, some r =>
    if a.len = 4 ∧ (s.stream h).probeMatches a.src number = true then s.endNegotiation h r .negotiated else s
  | _, _ => s

/-- PY: R30. -/
def execProbeReply (a : Arrival) (handle verdict : Byte) (number : Half) (s : State) : Answer :=
  .next (s.arrive .floor (.probeReply a handle verdict number) a.time a.src
    (fun s => s.takeProbeReply a handle verdict number))

/-- A stream takes a CG from a station: it is live, not CLOSING, and owned by it (R49). -/
def Stream.takesCredit (r : Stream) (src : Half) : Bool :=
  r.live && r.state != .closing && r.owner == some src

/-- Adds frames to a stream's credit, which saturates at 255 (R49). -/
def State.addCredit (s : State) (h : Handle) (n : Nat) : State :=
  s.setStream h { s.stream h with credit := min 255 ((s.stream h).credit + n) }

/-- The effect of a CG: the credit rises, and a wait may be settled (R49, R147). -/
def State.takeCredit (s : State) (a : Arrival) (handle count : Byte) : State :=
  match handleOf handle with
  | none => s
  | some h =>
    if a.len = 4 ∧ count ≠ 0 ∧ (s.stream h).takesCredit a.src = true then
      (s.addCredit h count.toNat).settleWait h
    else s

/-- CG: R49. -/
def execCreditGrant (a : Arrival) (handle count : Byte) (s : State) : Answer :=
  .next (s.arrive .floor (.creditGrant a handle count) a.time a.src (fun s => s.takeCredit a handle count))

/-- A station's BR: offered for a local answer, and otherwise forwarded or discarded (R92, R127). -/
def execStationBlockRead (t : Nat) (frame : Frame) (s : State) : Answer :=
  .next (s.arriveFrame .floor (.stationBlockRead t frame) t frame (fun s =>
    if frameKind frame = 0x01 ∧ frameDst frame ≠ s.straps.station then s.offerRead frame else s))

/-- A frame that fails the checks of R203, or that classification discards, is dropped whole. A frame that does spell a
command waits on its link as that command (notes/assumptions/23.md). -/
def execMalformedFrame (t : Nat) (port : Port) (frame : Frame) (s : State) : Answer :=
  let s := s.stamp t
  .next (match s.linkUp port, s.commandOf port t frame with
    | true, some c => s.waitOnLink port c
    | _, _ => s)

end Sys2Proof.Machine
end

