-- ==== Sys2Proof/Machine/ArrayMessages.lean ====
section
/-! DEFINITION. The messages taken on the array port other than management: BD and DF for the part (R107, R115),
forwarded messages and RN (R125, R126), QR and QE (R134, R136). -/

namespace Sys2Proof.Machine

open Sys2Proof

/-- BD for the part: R107 to R111, R113. The report of an issued count of 0 follows (R118). -/
def execBlockDataForPart (a : Arrival) (tag : Half) (offset count : Byte) (final : Bool) (total : Half) (check : Word)
    (data : List Byte) (s : State) : Answer :=
  .next (s.arrive .array (.blockDataForPart a tag offset count final total check data) a.time a.src (fun s =>
    (s.blockData a.len tag offset.toNat count.toNat final total.toNat check data).drainEnd))

/-- DF for the part: R115. -/
def execDeferForPart (a : Arrival) (tag : Half) (delay : Word) (s : State) : Answer :=
  .next (s.arrive .array (.deferForPart a tag delay) a.time a.src (fun s =>
    (s.deferReply a.len tag delay.toNat).drainEnd))

/-- A BD or DF addressed to a station: R125. -/
def execForwardedArrayMessage (t : Nat) (frame : Frame) (s : State) : Answer :=
  .next (s.arriveFrame .array (.forwardedArrayMessage t frame) t frame (fun s =>
    if (frameKind frame = 0x02 ∨ frameKind frame = 0x03) ∧ frameDst frame ≠ s.straps.station then
      s.forwardToFloor frame
    else s))

/-- RN: R126, R89. -/
def execRewriteNotice (t : Nat) (frame : Frame) (s : State) : Answer :=
  .next (s.arriveFrame .array (.rewriteNotice t frame) t frame (fun s =>
    if frameKind frame = 0x04 then s.takeRewrite frame else s))

/-- The message is a QG. -/
def ArrayControl.isGrant (m : ArrayControl) : Bool :=
  match m with
  | .qg _ => true
  | .ma _ => false
  | .mn _ _ => false

/-- A QG waits for transmission, in the queue or in the port. -/
def State.grantPlaced (s : State) : Bool := s.array.control.any ArrayControl.isGrant || s.array.grantWaiting.isSome

/-- The effect of a QR by the quiesce state (R134). -/
def State.takeQuiesceRequest (s : State) (src : Half) : State :=
  match s.array.quiesce with
  | .opened =>
    let s := { s with array := { s.array with asker := some src } }
    ((s.setQuiesce .quiescing).leaveOpen).drainEnd
  | .quiescing => s
  | .quiesced =>
    if s.grantPlaced then s else State.placeGrant { s with array := { s.array with asker := some src } }

/-- QR: R134; one whose body length is not 0 is discarded (R207). -/
def execQuiesceRequest (a : Arrival) (s : State) : Answer :=
  .next (s.arrive .array (.quiesceRequest a) a.time a.src (fun s =>
    if a.len = 0 then s.takeQuiesceRequest a.src else s))

/-- Every QG that waits is removed (R135, R136). -/
def State.dropGrants (s : State) : State :=
  { s with array := { s.array with control := s.array.control.filter (fun m => !m.isGrant), grantWaiting := none } }

/-- The effect of a QE by the quiesce state (R136). -/
def State.takeQuiesceEnd (s : State) : State :=
  match s.array.quiesce with
  | .opened => s
  | .quiescing => s.dropGrants.setQuiesce .opened
  | .quiesced => s.dropGrants.setQuiesce .opened

/-- QE: R136; one whose body length is not 0 is discarded (R207). -/
def execQuiesceEnd (a : Arrival) (s : State) : Answer :=
  .next (s.arrive .array (.quiesceEnd a) a.time a.src (fun s => if a.len = 0 then s.takeQuiesceEnd else s))

end Sys2Proof.Machine
end

