-- ==== Sys2Proof/Machine/Staging.lean ====
section
/-! DEFINITION. The management verbs that edit the staged bank (chapter 9.2, 9.3; chapter 1.5; R166). -/

namespace Sys2Proof.Machine

open Sys2Proof

/-- An MQ whose body is too short for a request number and verb is discarded (R209). -/
def State.readableManage (s : State) (a : Arrival) (effect : State → State) : State :=
  if a.len < 8 then s else effect s

/-- Answers an MQ without a body (R183). -/
def State.reply (s : State) (a : Arrival) (req : Word) (v : ManageVerb) (result : ManageResult) : State :=
  s.answerManage a.src req (verbCode v) result .empty

/-- A verb that edits the staged bank: BUSY while WALKING, refused with the first check that fails, and otherwise its
edit and OK (R184, R209). -/
def State.stage (s : State) (a : Arrival) (req : Word) (v : ManageVerb) (edit : Except ManageResult Bank) : State :=
  if s.walking then s.reply a req v .busy
  else match edit with
    | .error e => s.reply a req v e
    | .ok b => State.reply { s with tables := { s.tables with staged := b } } a req v .ok

/-- The edit of STAGE CLIP (R11, R12, R13, R185). -/
def Bank.stageClip (b : Bank) (len : Nat) (offer : ClipOffer) : Except ManageResult Bank :=
  if !offer.lengthOk len || !offer.fieldsOk then .error .badField
  else if !offer.extentsSuffice then .error .shortExtents
  else if (b.clip offer.clipId).isNone && decide (Config.maxClips ≤ b.clips.length) then .error .full
  else .ok { b with clips := insertClip offer.entry b.clips }

/-- STAGE CLIP: R185. -/
def execStageClip (a : Arrival) (req : Word) (offer : ClipOffer) (s : State) : Answer :=
  .next (s.arrive .array (.stageClip a req offer) a.time a.src (fun s => s.readableManage a (fun s =>
    s.stage a req .stageClip (s.tables.staged.stageClip a.len offer))))

/-- The edit of UNSTAGE CLIP (R15, R187). -/
def Bank.unstageClip (b : Bank) (len : Nat) (clip : Word) : Except ManageResult Bank :=
  if len ≠ 12 then .error .badField
  else if (b.clip clip).isNone then .error .noSuch
  else .ok { b with clips := b.clips.filter (fun c => c.clipId != clip) }

/-- UNSTAGE CLIP: R187. -/
def execUnstageClip (a : Arrival) (req clip : Word) (s : State) : Answer :=
  .next (s.arrive .array (.unstageClip a req clip) a.time a.src (fun s => s.readableManage a (fun s =>
    s.stage a req .unstageClip (s.tables.staged.unstageClip a.len clip))))

/-- The checks of R14 on an offered station entry; `own` is the part's own station number. -/
def stationOk (own station : Half) (shedClass limit : Byte) : Bool :=
  station != 0 && station != 0xFFFF && station != own && decide (shedClass.toNat ≤ 7)
    && decide (1 ≤ limit.toNat) && decide (limit.toNat ≤ 8)

/-- The edit of STAGE STATION (R14, R186). -/
def Bank.stageStation (b : Bank) (len : Nat) (own station : Half) (shedClass limit : Byte) :
    Except ManageResult Bank :=
  if len ≠ 12 ∨ stationOk own station shedClass limit = false then .error .badField
  else if (b.station station).isNone && decide (Config.maxStations ≤ b.stations.length) then .error .full
  else .ok { b with stations := insertStation { station := station, shedClass := shedClass.toNat,
                                                limit := limit.toNat } b.stations }

/-- STAGE STATION: R186. -/
def execStageStation (a : Arrival) (req : Word) (station : Half) (shedClass limit : Byte) (s : State) : Answer :=
  .next (s.arrive .array (.stageStation a req station shedClass limit) a.time a.src (fun s =>
    s.readableManage a (fun s => s.stage a req .stageStation
      (s.tables.staged.stageStation a.len s.straps.station station shedClass limit))))

/-- The edit of UNSTAGE STATION (R15, R187). -/
def Bank.unstageStation (b : Bank) (len : Nat) (station : Half) : Except ManageResult Bank :=
  if len ≠ 12 then .error .badField
  else if (b.station station).isNone then .error .noSuch
  else .ok { b with stations := b.stations.filter (fun e => e.station != station) }

/-- UNSTAGE STATION: R187. -/
def execUnstageStation (a : Arrival) (req : Word) (station : Half) (s : State) : Answer :=
  .next (s.arrive .array (.unstageStation a req station) a.time a.src (fun s => s.readableManage a (fun s =>
    s.stage a req .unstageStation (s.tables.staged.unstageStation a.len station))))

/-- The edit of STAGE POLICY (R191). -/
def Bank.stagePolicy (b : Bank) (len : Nat) (offer : PolicyOffer) : Except ManageResult Bank :=
  match offer.record with
  | none => .error .badField
  | some p => if len = 20 then .ok { b with policy := p } else .error .badField

/-- STAGE POLICY: R191. -/
def execStagePolicy (a : Arrival) (req : Word) (offer : PolicyOffer) (s : State) : Answer :=
  .next (s.arrive .array (.stagePolicy a req offer) a.time a.src (fun s => s.readableManage a (fun s =>
    s.stage a req .stagePolicy (s.tables.staged.stagePolicy a.len offer))))

/-- The staged shed settings that an accepted STAGE RULE leaves (R166). -/
def ShedSettings.stage (x : ShedSettings) (r : RuleNumber) (rule : ShedRule) (settings : Option (Source × Settings)) :
    ShedSettings :=
  let y : ShedSettings := { x with rules := x.rules.set r.1 rule r.2 }
  match settings with
  | none => y
  | some (src, v) => y.put src v

/-- The edit of STAGE RULE (R166, R188). -/
def Bank.stageRule (b : Bank) (len : Nat) (offer : RuleOffer) : Except ManageResult Bank :=
  match ruleOf offer.rule, offer.record, offer.settings with
  | some r, some rule, some settings =>
    if len = 24 then .ok { b with shed := b.shed.stage r rule settings } else .error .badField
  | _, _, _ => .error .badField

/-- STAGE RULE: R188. -/
def execStageRule (a : Arrival) (req : Word) (offer : RuleOffer) (s : State) : Answer :=
  .next (s.arrive .array (.stageRule a req offer) a.time a.src (fun s => s.readableManage a (fun s =>
    s.stage a req .stageRule (s.tables.staged.stageRule a.len offer))))

/-- The edit of DISCARD STAGE: the active bank replaces the staged one (R189). -/
def TableStore.discarded (t : TableStore) (len : Nat) : Except ManageResult Bank :=
  if len = 8 then .ok t.active else .error .badField

/-- DISCARD STAGE: R189. -/
def execDiscardStage (a : Arrival) (req : Word) (s : State) : Answer :=
  .next (s.arrive .array (.discardStage a req) a.time a.src (fun s => s.readableManage a (fun s =>
    s.stage a req .discardStage (s.tables.discarded a.len))))

end Sys2Proof.Machine
end

