-- ==== Sys2Proof/Machine/Management.lean ====
section
/-! DEFINITION. The other management verbs (chapter 9): COMMIT and its walk, CLEAR SHED, the READ verbs, RESET STREAMS,
RESET PART and the full reset, and the unknown verb. -/

namespace Sys2Proof.Machine

open Sys2Proof

/-! ## COMMIT and the walk (R192 to R195) -/

/-- The swap of an accepted COMMIT (R192, item 3). -/
def State.swap (s : State) (asker : Half) (req : Word) : State :=
  let before := s.tables.active.shed
  State.rearm { s with tables := s.tables.swap asker req } before

/-- COMMIT taken in IDLE (R192, R209). -/
def State.takeCommit (s : State) (a : Arrival) (req : Word) : State :=
  if s.walking then s.reply a req .commit .busy
  else if a.len ≠ 8 then s.reply a req .commit .badField
  else if s.anyTripped then s.reply a req .commit .shedPending
  else if s.tables.staged.policy.ceiling < s.reservationSum then s.reply a req .commit .ceiling
  else s.swap a.src req

/-- COMMIT: R192. -/
def execCommit (a : Arrival) (req : Word) (s : State) : Answer :=
  .next (s.arrive .array (.commit a req) a.time a.src (fun s => s.readableManage a (fun s => s.takeCommit a req)))

/-- Sets the walk state. -/
def State.setWalk (s : State) (w : Walk) : State := { s with tables := { s.tables with walk := w } }

/-- A visit of the commit walk (R193). -/
def State.walkVisit (s : State) : State :=
  match s.tables.walk with
  | .idle => s
  | .walking n asker req =>
    if h : n < 128 then (s.visit ⟨n, h⟩).setWalk (.walking (n + 1) asker req) else s

/-- COMMIT_WALK_VISIT: R193. -/
def execCommitWalkVisit (t : Nat) (s : State) : Answer := .next (s.event t State.walkVisit)

/-- A COMMIT's OK is placed, or waits in the responder for a place (R195); it is discarded while the link is DOWN. -/
def State.answerCommit (s : State) (m : ManageAnswer) : State :=
  if !s.array.linkUp then s
  else if s.arrayRoom then s.pushArray (.ma m)
  else { s with responder := { s.responder with waiting := some m } }

/-- The tables at the end of the walk (R195, items 1 to 3). -/
def TableStore.endWalk (t : TableStore) : TableStore := { t with staged := t.active, retired := [], walk := .idle }

/-- The end of the commit walk, after the visit of handle 127 (R195). -/
def State.walkEnd (s : State) : State :=
  match s.tables.walk with
  | .idle => s
  | .walking n asker req =>
    if n < 128 then s
    else
      State.answerCommit { s with tables := s.tables.endWalk }
        { dst := asker, req := req, verb := verbCode .commit, result := .ok, walking := false,
          generation := s.tables.generation, body := .empty }

/-- COMMIT_WALK_END: R195. -/
def execCommitWalkEnd (t : Nat) (s : State) : Answer := .next (s.event t State.walkEnd)

/-! ## CLEAR SHED (R176) -/

/-- The result of a CLEAR SHED (R176, R209). -/
def State.clearResult (s : State) (len : Nat) (rule : Byte) : Except ManageResult RuleNumber :=
  match ruleOf rule with
  | none => .error .badField
  | some r =>
    if len ≠ 12 then .error .badField
    else if s.ruleState r ≠ .tripped then .error .noSuch
    else if s.level (s.rule r).source = (s.rule r).level then .error .stillMatching
    else .ok r

/-- The effect of CLEAR SHED (R176, R177). -/
def State.takeClear (s : State) (a : Arrival) (req : Word) (rule : Byte) : State :=
  match s.clearResult a.len rule with
  | .error e => s.reply a req .clearShed e
  | .ok r => (s.clearRule r).reply a req .clearShed .ok

/-- CLEAR SHED: R176. -/
def execClearShed (a : Arrival) (req : Word) (rule : Byte) (s : State) : Answer :=
  .next (s.arrive .array (.clearShed a req rule) a.time a.src (fun s => s.readableManage a (fun s =>
    s.takeClear a req rule)))

/-! ## Reading (R196 to R198) -/

/-- The entry that READ CLIP names, after its field checks (R196). -/
def TableStore.readClip (t : TableStore) (clip : Word) (staged : Bool) (edition : Option Word) :
    Option (FoundIn × Clip) :=
  if staged then
    match t.staged.clip clip with
    | none => none
    | some c => some (.staged, c)
  else match edition with
    | some e => t.lookup clip e
    | none => match t.active.clip clip with
      | none => none
      | some c => some (.active, c)

/-- The bank of READ CLIP: whether it is STAGED. -/
def bankOf (b : Byte) : Option Bool := if b = 1 then some false else if b = 2 then some true else none

/-- The fields of a READ CLIP, or none where a check fails (R196, R209): the bank and the edition given. -/
def readClipFields (len : Nat) (clip : Word) (bank editionGiven : Byte) (edition : Word) :
    Option (Bool × Option Word) :=
  match bankOf bank, flagOf editionGiven with
  | some staged, some given =>
    if len ≠ 20 ∨ clip = 0 ∨ (staged = true ∧ given = true) then none
    else some (staged, if given then some edition else none)
  | _, _ => none

/-- The effect of READ CLIP (R196). -/
def State.takeReadClip (s : State) (a : Arrival) (req clip : Word) (bank editionGiven : Byte) (edition : Word) : State :=
  match readClipFields a.len clip bank editionGiven edition with
  | none => s.reply a req .readClip .badField
  | some (staged, e) => match s.tables.readClip clip staged e with
    | none => s.reply a req .readClip .noSuch
    | some (found, c) => s.answerManage a.src req (verbCode .readClip) .ok (.clip found c)

/-- READ CLIP: R196. -/
def execReadClip (a : Arrival) (req clip : Word) (bank editionGiven : Byte) (edition : Word) (s : State) : Answer :=
  .next (s.arrive .array (.readClip a req clip bank editionGiven edition) a.time a.src (fun s =>
    s.readableManage a (fun s => s.takeReadClip a req clip bank editionGiven edition)))

/-- What READ STREAM gives of a record (R197). -/
def State.streamBody (s : State) (h : Handle) : AnswerBody :=
  let w := s.window h
  if (s.stream h).live then
    .stream { handle := h, stream := s.stream h, pending := w.countState .pending, ready := w.countState .ready,
              failed := w.countState .failed, sending := w.sending.length, sum := s.reservationSum,
              ceiling := s.tables.active.policy.ceiling }
  else .closedStream

/-- The effect of READ STREAM (R197). -/
def State.takeReadStream (s : State) (a : Arrival) (req : Word) (handle : Byte) : State :=
  match handleOf handle with
  | none => s.reply a req .readStream .badField
  | some h =>
    if a.len = 12 then s.answerManage a.src req (verbCode .readStream) .ok (s.streamBody h)
    else s.reply a req .readStream .badField

/-- READ STREAM: R197. -/
def execReadStream (a : Arrival) (req : Word) (handle : Byte) (s : State) : Answer :=
  .next (s.arrive .array (.readStream a req handle) a.time a.src (fun s => s.readableManage a (fun s =>
    s.takeReadStream a req handle)))

/-- A verb without fields: a body of the wrong length is answered BAD_FIELD (R209). -/
def State.bare (s : State) (a : Arrival) (req : Word) (v : ManageVerb) (effect : State → State) : State :=
  if a.len = 8 then effect s else s.reply a req v .badField

/-- READ SPAN COUNTS: R198, R95. -/
def execReadSpanCounts (a : Arrival) (req : Word) (s : State) : Answer :=
  .next (s.arrive .array (.readSpanCounts a req) a.time a.src (fun s => s.readableManage a (fun s =>
    s.bare a req .readSpanCounts (fun s =>
      s.answerManage a.src req (verbCode .readSpanCounts) .ok (.spanCounts s.buffer.counts)))))

/-- READ FETCH COUNTS: R198, R120. -/
def execReadFetchCounts (a : Arrival) (req : Word) (s : State) : Answer :=
  .next (s.arrive .array (.readFetchCounts a req) a.time a.src (fun s => s.readableManage a (fun s =>
    s.bare a req .readFetchCounts (fun s =>
      s.answerManage a.src req (verbCode .readFetchCounts) .ok (.fetchCounts s.fetchReport)))))

/-! ## Resets (R200, R201) -/

/-- RESET STREAMS: R200, R53. -/
def execResetStreams (a : Arrival) (req : Word) (s : State) : Answer :=
  .next (s.arrive .array (.resetStreams a req) a.time a.src (fun s => s.readableManage a (fun s =>
    s.bare a req .resetStreams (fun s => (s.closeAll handles).reply a req .resetStreams .ok))))

/-- A full reset that reads the strap pins at the levels given (R201); the model's own counter and the queue of commands
stay. -/
def State.fullReset (s : State) (pins : Straps) : State :=
  { State.resetWith pins with choices := s.choices, pending := s.pending }

/-- RESET PART: R201. It is not answered. That one with a body longer than 8 bytes draws BAD_FIELD (R209, check 4) and does
not reset the part, although R183 says that RESET PART is never answered, is a DESIGN CHOICE (notes/assumptions/32.md). -/
def execResetPart (a : Arrival) (req : Word) (s : State) : Answer :=
  .next (s.arrive .array (.resetPart a req) a.time a.src (fun s => s.readableManage a (fun s =>
    s.bare a req .resetPart (fun s => s.fullReset s.pins))))

/-- POWER_ON: R201, R140. -/
def execPowerOn (_t : Nat) (pins : Straps) (s : State) : Answer := .next (s.fullReset pins)

/-- RESET_PIN: R201, R140. -/
def execResetPin (_t : Nat) (pins : Straps) (s : State) : Answer := .next (s.fullReset pins)

/-- An MQ whose verb is none of the fifteen: R183, R209. -/
def execUnknownManageVerb (a : Arrival) (req : Word) (verb : Byte) (s : State) : Answer :=
  .next (s.arrive .array (.unknownManageVerb a req verb) a.time a.src (fun s => s.readableManage a (fun s =>
    s.answerManage a.src req verb .badField .empty)))

end Sys2Proof.Machine
end

