-- ==== Sys2Proof/Machine/Timers.lean ====
section
/-! DEFINITION. The timers of the part: probe window (R31), due time (R145), read timeout (R116), not-before time
(R104) and issue hold (R121). A timer that has not been reached, or does not run, changes nothing
(notes/assumptions/6.md). -/

namespace Sys2Proof.Machine

open Sys2Proof

/-- A timer has been reached. -/
def State.reached (s : State) (t : Option Nat) : Bool :=
  match t with
  | none => false
  | some d => decide (d ≤ s.now)

/-- The expiry of a stream's probe window (R31). -/
def State.endProbe (s : State) (h : Handle) : State :=
  if (s.stream h).state = .negotiating ∧ s.reached (s.stream h).probeExpiry = true then
    s.endNegotiation h .proxy .negotiated
  else s

/-- PROBE_WINDOW_EXPIRY: R31. -/
def execProbeWindowExpiry (t : Nat) (h : Handle) (s : State) : Answer := .next (s.event t (fun s => s.endProbe h))

/-- A stream's due time, decided when it has been reached (R145). -/
def State.takeDue (s : State) (h : Handle) : State :=
  if (s.stream h).state = .playing ∧ (s.cadence h).headWait = false ∧ s.reached (s.cadence h).nextDue = true then
    s.decideDue h
  else s

/-- DUE_TIME: R145. -/
def execDueTime (t : Nat) (h : Handle) (s : State) : Answer := .next (s.event t (fun s => s.takeDue h))

/-- READ_TIMEOUT: R116. The report of an issued count of 0 follows (R118). -/
def execReadTimeout (t : Nat) (tag : TagIndex) (s : State) : Answer :=
  .next (s.event t (fun s => (s.timeOut tag).drainEnd))

/-- NOT_BEFORE_TIME_REACHED: R104. -/
def execNotBeforeTimeReached (t : Nat) (span : Nat) (s : State) : Answer :=
  .next (s.event t (fun s => s.endDefer span))

/-- The end of the issue hold (R121). -/
def State.endHold (s : State) : State :=
  if s.reached s.fetch.holdUntil then { s with fetch := { s.fetch with holdUntil := none } } else s

/-- ISSUE_HOLD_END: R121. -/
def execIssueHoldEnd (t : Nat) (s : State) : Answer := .next (s.event t State.endHold)

end Sys2Proof.Machine
end

