-- ==== Sys2Proof/Machine/Transmissions.lean ====
section
/-! DEFINITION. The ends of transmissions (R131, R156, R159, R93), link-level flow control (R129), and the steps by
which waiting messages, notices and keys move on (R81, R130, R135, R195). -/

namespace Sys2Proof.Machine

open Sys2Proof

/-- The message in transmission on the array port ends. -/
def State.endArrayMessage (s : State) : State := { s with array := { s.array with sending := none } }

/-- ARRAY_TRANSMISSION_END: R131. -/
def execArrayTransmissionEnd (t : Nat) (s : State) : Answer := .next (s.event t State.endArrayMessage)

/-- The transmitter on the floor port becomes free. -/
def State.freeFloor (s : State) : State := { s with tx := { s.tx with sending := none } }

/-- The last segment of a frame that has not been abandoned ends, and with it the frame's transmission (R159). -/
def State.endFrame (s : State) (d : Delivery) : State :=
  let s := { s with tx := { s.tx with sending := none, current := none } }
  s.transmissionEnded d.handle d.slot

/-- A segment ends the transmission of its frame: it is the last, and the frame has not been abandoned (R159). -/
def endsFrame (d : Delivery) (fd : FrameSegment) : Bool := fd.last && !d.abandoned

/-- A BD of a local answer has been sent: the next is handed over, or the answer ends (R93, R94). -/
def State.endAnswerBlock (s : State) (serial : Nat) (bd : AnswerData) : State :=
  let s := s.freeFloor
  match s.localAnswer serial with
  | none => s
  | some a => if bd.final then s.endAnswer a else s.handBlock a

/-- The message in transmission on the floor port ends, whatever it is (R156, R159, R93). -/
def State.endFloorMessage (s : State) : State :=
  match s.tx.sending with
  | none => s
  | some (.control _) => s.freeFloor
  | some (.forwarded _) => s.freeFloor
  | some (.answer serial bd) => s.endAnswerBlock serial bd
  | some (.segment d fd) => if endsFrame d fd then s.endFrame d else s.freeFloor

/-- FLOOR_TRANSMISSION_END: R156. -/
def execFloorTransmissionEnd (t : Nat) (s : State) : Answer := .next (s.event t State.endFloorMessage)

/-- The end of a frame's last segment, where that is the message in transmission (R159). -/
def State.endLastSegment (s : State) : State :=
  match s.tx.sending with
  | some (.segment d fd) => if endsFrame d fd then s.endFrame d else s
  | _ => s

/-- FRAME_TRANSMISSION_END: R159. -/
def execFrameTransmissionEnd (t : Nat) (s : State) : Answer := .next (s.event t State.endLastSegment)

/-- The end of a BD of a local answer, where that is the message in transmission (R93). -/
def State.endSentBlock (s : State) : State :=
  match s.tx.sending with
  | some (.answer serial bd) => s.endAnswerBlock serial bd
  | _ => s

/-- LOCAL_ANSWER_BD_SENT: R93. -/
def execLocalAnswerBdSent (t : Nat) (s : State) : Answer := .next (s.event t State.endSentBlock)

/-- The link partner of a port holds or releases its transmitter (R129). -/
def State.setPartner (s : State) (port : Port) (holding : Bool) : State :=
  match port with
  | .array => { s with array := { s.array with partnerHolds := holding } }
  | .floor => { s with floor := { s.floor with partnerHolds := holding } }

/-- LINK_PARTNER_FLOW_CONTROL: R129. -/
def execLinkPartnerFlowControl (t : Nat) (port : Port) (holding : Bool) (s : State) : Answer :=
  .next (s.event t (fun s => if s.linkUp port then s.setPartner port holding else s))

/-- DRAIN_END: R135. -/
def execDrainEnd (t : Nat) (s : State) : Answer := .next (s.event t State.drainEnd)

/-- WAITING_QG_JOINS: R135. -/
def execWaitingQgJoins (t : Nat) (s : State) : Answer := .next (s.event t State.joinGrant)

/-- WAITING_COMMIT_ANSWER_JOINS: R195. -/
def execWaitingCommitAnswerJoins (t : Nat) (s : State) : Answer :=
  .next (s.event t (fun s => s.joinGrant.joinAnswer))

/-- MN_HANDOVER: R130, after a waiting QG and a waiting COMMIT answer (R135, R195). -/
def execMnHandover (t : Nat) (s : State) : Answer := .next (s.event t State.joins)

/-- ALLOCATION_QUEUE_SERVING: R81. -/
def execAllocationQueueServing (t : Nat) (s : State) : Answer := .next (s.event t State.serve)

end Sys2Proof.Machine
end

