-- ==== Sys2Proof/Machine/Links.lean ====
section
/-! DEFINITION. Loss and return of the links (R137 to R139). -/

namespace Sys2Proof.Machine

open Sys2Proof

/-- The message in transmission on the array port is an MN. -/
def ArrayMessage.isNotice (m : ArrayMessage) : Bool :=
  match m with
  | .control c => c.isNotice
  | .read _ => false
  | .forwarded _ => false

/-- An MN stands in the array transmit queue or is in transmission (R137, R199). -/
def State.noticeOut (s : State) : Bool :=
  s.array.control.any ArrayControl.isNotice || s.array.sending.any ArrayMessage.isNotice

/-- The queues toward the array are emptied and the message in transmission is cut off; a lost MN sets the overflow
mark (R137, items 1, 3 and 4; R135; R195; notes/assumptions/9.md, 25.md). -/
def State.emptyArray (s : State) : State :=
  { s with
    responder := { s.responder with overflow := s.responder.overflow || s.noticeOut, waiting := none }
    array := { s.array with sending := none, control := [], grantWaiting := none, partnerHolds := false,
                            onLink := [] }
    floor := { s.floor with toArray := [] } }

/-- The array link goes down (R137). -/
def State.loseArray (s : State) : State :=
  let s := { s with array := { s.array with linkUp := false } }
  ((s.emptyArray).setQuiesce .opened).returnIssued

/-- ARRAY_LINK_DOWN: R137. -/
def execArrayLinkDown (t : Nat) (s : State) : Answer :=
  .next (s.event t (fun s => if s.array.linkUp then s.loseArray else s))

/-- The array link comes up, where the straps are usable (R138, R140). -/
def State.raiseArray (s : State) : State :=
  if s.strapsUsable then { s with array := { s.array with linkUp := true } } else s

/-- ARRAY_LINK_UP: R138. -/
def execArrayLinkUp (t : Nat) (s : State) : Answer := .next (s.event t State.raiseArray)

/-- What was waiting to go out to the floor is lost (R139): the forwarding queue, the control and delivery queues, the
turn list and the message in transmission. -/
def State.emptyFloor (s : State) : State :=
  { s with
    array := { s.array with toFloor := [] }
    floor := { s.floor with partnerHolds := false, onLink := [] }
    tx := { s.tx with queue := [], current := none, control := [], turns := [], sending := none } }

/-- The floor link goes down (R139): every answer is abandoned (R94), and every stream is closed without notices (R54). R139
says that it is one step; that the answers go before the streams is a DESIGN CHOICE (notes/assumptions/30.md). -/
def State.loseFloor (s : State) : State :=
  let s := State.emptyFloor { s with floor := { s.floor with linkUp := false } }
  (s.abandonAnswers s.buffer.answers).closeAll handles

/-- FLOOR_LINK_DOWN: R139. -/
def execFloorLinkDown (t : Nat) (s : State) : Answer :=
  .next (s.event t (fun s => if s.floor.linkUp then s.loseFloor else s))

/-- The floor link comes up, where the straps are usable (R139, R140). -/
def State.raiseFloor (s : State) : State :=
  if s.strapsUsable then { s with floor := { s.floor with linkUp := true } } else s

/-- FLOOR_LINK_UP: R139. -/
def execFloorLinkUp (t : Nat) (s : State) : Answer := .next (s.event t State.raiseFloor)

end Sys2Proof.Machine
end

