-- ==== Sys2Proof/Machine/Dispatch.lean ====
section
/-! DEFINITION. The meaning of each command: one arm per constructor of Instr. -/

namespace Sys2Proof.Machine

open Sys2Proof

/-- The effect of a command on everything but the queue of commands. -/
def exec (i : Instr) (s : State) : Host.Outcome State Fault Refusal :=
  match i with
  | .openStream a req clip choice depth late => Sys2Proof.Machine.execOpenStream a req clip choice depth late s
  | .prime a req handle frame stride => Sys2Proof.Machine.execPrime a req handle frame stride s
  | .start a req handle frame stride => Sys2Proof.Machine.execStart a req handle frame stride s
  | .play a req handle => Sys2Proof.Machine.execPlay a req handle s
  | .pause a req handle => Sys2Proof.Machine.execPause a req handle s
  | .seek a req handle frame stride => Sys2Proof.Machine.execSeek a req handle frame stride s
  | .close a req handle => Sys2Proof.Machine.execClose a req handle s
  | .probeReply a handle verdict number => Sys2Proof.Machine.execProbeReply a handle verdict number s
  | .creditGrant a handle count => Sys2Proof.Machine.execCreditGrant a handle count s
  | .stationBlockRead t frame => Sys2Proof.Machine.execStationBlockRead t frame s
  | .malformedFrame t port frame => Sys2Proof.Machine.execMalformedFrame t port frame s
  | .blockDataForPart a tag offset count final total check data => Sys2Proof.Machine.execBlockDataForPart a tag offset count final total check data s
  | .deferForPart a tag delay => Sys2Proof.Machine.execDeferForPart a tag delay s
  | .forwardedArrayMessage t frame => Sys2Proof.Machine.execForwardedArrayMessage t frame s
  | .rewriteNotice t frame => Sys2Proof.Machine.execRewriteNotice t frame s
  | .quiesceRequest a => Sys2Proof.Machine.execQuiesceRequest a s
  | .quiesceEnd a => Sys2Proof.Machine.execQuiesceEnd a s
  | .stageClip a req offer => Sys2Proof.Machine.execStageClip a req offer s
  | .unstageClip a req clip => Sys2Proof.Machine.execUnstageClip a req clip s
  | .stageStation a req station shedClass limit => Sys2Proof.Machine.execStageStation a req station shedClass limit s
  | .unstageStation a req station => Sys2Proof.Machine.execUnstageStation a req station s
  | .stagePolicy a req offer => Sys2Proof.Machine.execStagePolicy a req offer s
  | .stageRule a req offer => Sys2Proof.Machine.execStageRule a req offer s
  | .discardStage a req => Sys2Proof.Machine.execDiscardStage a req s
  | .commit a req => Sys2Proof.Machine.execCommit a req s
  | .clearShed a req rule => Sys2Proof.Machine.execClearShed a req rule s
  | .readClip a req clip bank editionGiven edition => Sys2Proof.Machine.execReadClip a req clip bank editionGiven edition s
  | .readStream a req handle => Sys2Proof.Machine.execReadStream a req handle s
  | .readSpanCounts a req => Sys2Proof.Machine.execReadSpanCounts a req s
  | .readFetchCounts a req => Sys2Proof.Machine.execReadFetchCounts a req s
  | .resetStreams a req => Sys2Proof.Machine.execResetStreams a req s
  | .resetPart a req => Sys2Proof.Machine.execResetPart a req s
  | .powerOn t pins => Sys2Proof.Machine.execPowerOn t pins s
  | .resetPin t pins => Sys2Proof.Machine.execResetPin t pins s
  | .probeWindowExpiry t h => Sys2Proof.Machine.execProbeWindowExpiry t h s
  | .dueTime t h => Sys2Proof.Machine.execDueTime t h s
  | .readTimeout t tag => Sys2Proof.Machine.execReadTimeout t tag s
  | .notBeforeTimeReached t span => Sys2Proof.Machine.execNotBeforeTimeReached t span s
  | .issueHoldEnd t => Sys2Proof.Machine.execIssueHoldEnd t s
  | .commitWalkVisit t => Sys2Proof.Machine.execCommitWalkVisit t s
  | .commitWalkEnd t => Sys2Proof.Machine.execCommitWalkEnd t s
  | .arrayTransmissionEnd t => Sys2Proof.Machine.execArrayTransmissionEnd t s
  | .floorTransmissionEnd t => Sys2Proof.Machine.execFloorTransmissionEnd t s
  | .frameTransmissionEnd t => Sys2Proof.Machine.execFrameTransmissionEnd t s
  | .localAnswerBdSent t => Sys2Proof.Machine.execLocalAnswerBdSent t s
  | .linkPartnerFlowControl t port holding => Sys2Proof.Machine.execLinkPartnerFlowControl t port holding s
  | .arrayLinkDown t => Sys2Proof.Machine.execArrayLinkDown t s
  | .arrayLinkUp t => Sys2Proof.Machine.execArrayLinkUp t s
  | .floorLinkDown t => Sys2Proof.Machine.execFloorLinkDown t s
  | .floorLinkUp t => Sys2Proof.Machine.execFloorLinkUp t s
  | .drainEnd t => Sys2Proof.Machine.execDrainEnd t s
  | .waitingQgJoins t => Sys2Proof.Machine.execWaitingQgJoins t s
  | .waitingCommitAnswerJoins t => Sys2Proof.Machine.execWaitingCommitAnswerJoins t s
  | .mnHandover t => Sys2Proof.Machine.execMnHandover t s
  | .allocationQueueServing t => Sys2Proof.Machine.execAllocationQueueServing t s
  | .unknownStationVerb a req verb handle => Sys2Proof.Machine.execUnknownStationVerb a req verb handle s
  | .unknownManageVerb a req verb => Sys2Proof.Machine.execUnknownManageVerb a req verb s

end Sys2Proof.Machine
end

