-- ==== Sys2Proof/Machine/Idle.lean ====
section
/-! DEFINITION. What the part does when no command waits (notes/assumptions/2.md): its time runs on by 1 µs, its own
events whose conditions hold are put in the queue, and so are the messages that waited on a link that takes again
(notes/assumptions/10.md). -/

namespace Sys2Proof.Machine

open Sys2Proof

/-- The stream timers that have been reached, in handle order (R31, R145). -/
def State.streamTimers (s : State) (h : Handle) : List Instr :=
  (if (s.stream h).state = .negotiating ∧ s.reached (s.stream h).probeExpiry = true then
    [.probeWindowExpiry s.now h] else [])
  ++ (if (s.stream h).state = .playing ∧ s.reached (s.cadence h).nextDue = true then [.dueTime s.now h] else [])

/-- The fetch timers that a span's record has reached (R104, R116). -/
def State.fetchTimers (s : State) (e : Nat × Span) : List Instr :=
  match e.2.fetch with
  | none => []
  | some f =>
    (match f.tag with
      | none => []
      | some tag => if s.reached f.expiry then [.readTimeout s.now tag] else [])
    ++ (if f.state = .deferred ∧ s.reached f.notBefore = true then [.notBeforeTimeReached s.now e.1] else [])

/-- The next event of the commit walk (R193, R195). That other events may come between the visit of handle 127 and the end
of the walk, as between two visits, is a DESIGN CHOICE (notes/assumptions/33.md). -/
def State.walkEvents (s : State) : List Instr :=
  match s.tables.walk with
  | .idle => []
  | .walking n _ _ => if n < 128 then [.commitWalkVisit s.now] else [.commitWalkEnd s.now]

/-- The steps by which a waiting QG, a COMMIT's OK, a notice or a waiting key moves on (R81, R130, R135, R195). -/
def State.internalEvents (s : State) : List Instr :=
  (if s.array.quiesce = .quiescing ∧ s.issuedCount = 0 then [.drainEnd s.now] else [])
  ++ (if s.array.grantWaiting.isSome && s.arrayRoom then [.waitingQgJoins s.now] else [])
  ++ (if s.responder.waiting.isSome && s.arrayRoom then [.waitingCommitAnswerJoins s.now] else [])
  ++ (if !s.responder.notices.isEmpty && s.array.linkUp && s.arrayRoom
        && !s.array.control.any ArrayControl.isNotice then [.mnHandover s.now] else [])
  ++ (if !s.buffer.waiting.isEmpty && s.buffer.take.isSome then [.allocationQueueServing s.now] else [])

/-- The part's own events whose conditions hold now. -/
def State.ownEvents (s : State) : List Instr :=
  handles.flatMap s.streamTimers ++ s.buffer.spans.flatMap s.fetchTimers
    ++ (if s.reached s.fetch.holdUntil then [.issueHoldEnd s.now] else []) ++ s.walkEvents ++ s.internalEvents

/-- The messages on the array link, when the port takes again (R129). -/
def State.arrayReleased (s : State) : List Instr := if s.arrayHolds then [] else s.array.onLink

/-- The messages on the floor link, when the port takes again (R129). -/
def State.floorReleased (s : State) : List Instr := if s.floorHolds then [] else s.floor.onLink

/-- The messages released from a link no longer wait on it. -/
def State.clearLinks (s : State) : State :=
  { s with array := { s.array with onLink := if s.arrayHolds then s.array.onLink else [] }
           floor := { s.floor with onLink := if s.floorHolds then s.floor.onLink else [] } }

/-- The part while no command waits. That the messages released from the array link join the queue before those released
from the floor link is a DESIGN CHOICE: R129 orders only the messages of one link (notes/assumptions/10.md). -/
def State.idle (s : State) : State :=
  let s := { s with now := s.now + 1 }
  { s.clearLinks with pending := s.ownEvents ++ s.arrayReleased ++ s.floorReleased }

end Sys2Proof.Machine
end

