-- ==== Sys2Proof/Safety.lean ====
section
/-! DEFINITION. The invariants of the part: what is true of every state that its steps lead to from a full reset. -/

namespace Sys2Proof.Machine

open Sys2Proof

/-- Buffer memory is in canonical form. -/
abbrev State.memoryOk (s : State) : Prop := Memory.wf s.buffer.memory

/-- The number of MNs in the array transmit queue (R123). -/
def State.noticesQueued (s : State) : Nat := (s.array.control.filter ArrayControl.isNotice).length

/-- Every queue of messages is within the bound that the manual gives it: the floor control queue (R152), the MN notice
queue (R199), the array transmit queue and the two forwarding queues (R123, R124). -/
structure State.Bounded (s : State) : Prop where
  control  : s.tx.control.length ≤ Config.controlQueue
  notices  : s.responder.notices.length ≤ Config.noticeQueue
  transmit : s.array.control.length ≤ Config.arrayQueue
  toFloor  : s.array.toFloor.length ≤ Config.forwardQueue
  toArray  : s.floor.toArray.length ≤ Config.forwardQueue

/-- At most one message of the array transmit queue is an MN (R123, R130). -/
abbrev State.OneNotice (s : State) : Prop := s.noticesQueued ≤ 1

/-- The credit and the consecutive gaps of a record are within 0 to 255 (R19, R49, R50). -/
abbrev Stream.Counted (r : Stream) : Prop := r.credit ≤ 255 ∧ r.gaps ≤ 255

/-- The counts of every stream record are within their range. -/
abbrev State.Counted (s : State) : Prop := ∀ h : Handle, (s.stream h).Counted

/-- The commit walk, while it runs, stands at a handle of 0 to 127 or past the last one (R193). -/
def State.WalkOk (s : State) : Prop :=
  match s.tables.walk with
  | .idle => True
  | .walking n _ _ => n ≤ 128

/-- The segment in transmission on the floor port belongs to the frame in transmission, unless its frame has been
abandoned (R155, R160). -/
def State.SegmentOk (s : State) : Prop :=
  match s.tx.sending with
  | some (.segment d _) => d.abandoned = true ∨ s.tx.current = some d
  | _ => True

/-- A step that answers a next state keeps a property. -/
def StepKeeps (p : State → Prop) : Prop := ∀ s t : State, p s → step s = .next t → p t

/-- A command that answers a next state keeps a property. -/
def ExecKeeps (c : Instr) (p : State → Prop) : Prop := ∀ s t : State, p s → exec c s = .next t → p t

/-! ## The commands that are messages -/

/-- The port and the arrival of a command that is a message given by its fields. -/
def arrivalAt : Instr → Option (Port × Arrival)
  | .openStream a .. => some (.floor, a)
  | .prime a .. => some (.floor, a)
  | .start a .. => some (.floor, a)
  | .play a .. => some (.floor, a)
  | .pause a .. => some (.floor, a)
  | .seek a .. => some (.floor, a)
  | .close a .. => some (.floor, a)
  | .unknownStationVerb a .. => some (.floor, a)
  | .probeReply a .. => some (.floor, a)
  | .creditGrant a .. => some (.floor, a)
  | .blockDataForPart a .. => some (.array, a)
  | .deferForPart a .. => some (.array, a)
  | .quiesceRequest a => some (.array, a)
  | .quiesceEnd a => some (.array, a)
  | .stageClip a .. => some (.array, a)
  | .unstageClip a .. => some (.array, a)
  | .stageStation a .. => some (.array, a)
  | .unstageStation a .. => some (.array, a)
  | .stagePolicy a .. => some (.array, a)
  | .stageRule a .. => some (.array, a)
  | .discardStage a .. => some (.array, a)
  | .commit a .. => some (.array, a)
  | .clearShed a .. => some (.array, a)
  | .readClip a .. => some (.array, a)
  | .readStream a .. => some (.array, a)
  | .readSpanCounts a .. => some (.array, a)
  | .readFetchCounts a .. => some (.array, a)
  | .resetStreams a .. => some (.array, a)
  | .resetPart a .. => some (.array, a)
  | .unknownManageVerb a .. => some (.array, a)
  | _ => none

/-- The port, the time and the frame of a command that is a message given as its whole frame. -/
def frameAt : Instr → Option (Port × Nat × Frame)
  | .stationBlockRead t f => some (.floor, t, f)
  | .forwardedArrayMessage t f => some (.array, t, f)
  | .rewriteNotice t f => some (.array, t, f)
  | _ => none

/-- The command is an SQ or an MQ: a request that is answered. -/
def isRequest : Instr → Bool
  | .probeReply .. => false
  | .creditGrant .. => false
  | .blockDataForPart .. => false
  | .deferForPart .. => false
  | .quiesceRequest _ => false
  | .quiesceEnd _ => false
  | c => (arrivalAt c).isSome

/-! ## Conditions of the statements -/

/-- A port takes a message from a source: its link is UP, nothing waits on it, the port does not hold it, and the source
passes check 4 of R203. -/
abbrev State.Taking (s : State) (port : Port) (src : Half) : Prop :=
  s.linkUp port = true ∧ s.waits port = false ∧ s.sourceOk port src = true

/-- A port takes a whole frame, whose header passes the checks of R203. -/
abbrev State.TakingFrame (s : State) (port : Port) (f : Frame) : Prop :=
  s.linkUp port = true ∧ s.waits port = false ∧ s.headerOk port f = true

/-- A handle byte names a stream. -/
abbrev Names (b : Byte) (h : Handle) : Prop := b.toNat = h.1

/-- A station may give verbs other than OPEN and CLOSE to a stream: it owns the stream, which is in one of the states
that pass checks 3 to 5 of R33. -/
abbrev State.Usable (s : State) (src : Half) (h : Handle) : Prop :=
  (s.stream h).owner = some src ∧
    ((s.stream h).state = .idle ∨ (s.stream h).state = .priming ∨ (s.stream h).state = .primed
      ∨ (s.stream h).state = .playing ∨ (s.stream h).state = .paused)

/-- No rule is ARMED, so that no transition trips one (R169). -/
abbrev State.NoneArmed (s : State) : Prop := ∀ r : RuleNumber, s.ruleState r ≠ .armed

/-- The floor link is UP and the floor control queue has room for `n` messages. -/
abbrev State.RoomFor (s : State) (n : Nat) : Prop := s.floor.linkUp = true ∧ s.tx.control.length + n ≤ Config.controlQueue

/-- The MA that an MQ draws from a state (R183). -/
def State.manageAnswer (s : State) (a : Arrival) (req : Word) (verb : Byte) (result : ManageResult)
    (body : AnswerBody) : ManageAnswer :=
  { dst := a.src, req := req, verb := verb, result := result, walking := s.walking,
    generation := s.tables.generation, body := body }

end Sys2Proof.Machine
end

