-- ==== Sys2Proof/Certificates/Slice0/Obligations.lean ====
section
/-! DEFINITION. The statements for the provers, chapter by chapter. A statement about a command names the state after the
command's own effect exactly, so that whatever it does not name is unchanged; `State.settle`, the choices of the two
transmitters that end every event, is the subject of the statements on transmission. -/

open Sys2Proof Sys2Proof.Machine

/-! ## Steps and the queue of commands -/

/-- A step with a command at the front of its queue is that command on the rest of the queue. -/
def Obligations.StepRunsTheFrontCommand : Prop :=
  ∀ (c : Instr) (rest : List Instr) (s : State),
    step { s with pending := c :: rest } = exec c { s with pending := rest }

/-- With no command waiting the part idles: its time runs on by 1 µs, and its own events whose conditions hold and the
messages that a link has released join the queue. This is the model's choice (notes/assumptions/2.md, 10.md). -/
def Obligations.StepIdlesOnAnEmptyQueue : Prop :=
  ∀ s : State, s.pending = [] →
    let u : State := { s with now := s.now + 1 }
    step s = .next { u with
      pending := u.ownEvents ++ u.arrayReleased ++ u.floorReleased
      array := { s.array with onLink := if s.arrayHolds then s.array.onLink else [] }
      floor := { s.floor with onLink := if s.floorHolds then s.floor.onLink else [] } }

/-- No command changes the queue of commands that wait behind it. -/
def Obligations.CommandsKeepTheQueue : Prop :=
  ∀ (c : Instr) (s t : State), exec c s = .next t → t.pending = s.pending

/-- Every command answers a next state in every state: the manual gives every step an effect. -/
def Obligations.EveryCommandCompletes : Prop := ∀ (c : Instr) (s : State), ∃ t : State, exec c s = .next t

/-! ## Invariants -/

/-- Every step keeps buffer memory in canonical form. -/
def Obligations.StepKeepsMemoryCanonical : Prop := StepKeeps State.memoryOk

/-- Every step keeps every queue of messages within its bound, with at most one MN in the array transmit queue. -/
def Obligations.StepKeepsQueueBounds : Prop := StepKeeps (fun s => s.Bounded ∧ s.OneNotice)

/-- Every step keeps the credit and the consecutive gaps of every stream within 0 to 255, and the next handle of a
commit walk within 0 to 128. -/
def Obligations.StepKeepsCountsInRange : Prop := StepKeeps (fun s => s.Counted ∧ s.WalkOk)

/-- Every step keeps the segment in transmission a segment of the frame in transmission, unless that frame has been
abandoned: segments of two frames never interleave. -/
def Obligations.StepKeepsFramesApart : Prop := StepKeeps State.SegmentOk

/-- The state after reset satisfies every invariant. -/
def Obligations.ResetSatisfiesTheInvariants : Prop :=
  State.reset.memoryOk ∧ State.reset.Bounded ∧ State.reset.OneNotice ∧ State.reset.Counted ∧ State.reset.SegmentOk
    ∧ State.reset.WalkOk

/-! ## Full reset -/

/-- The state after a full reset, register by register. The chapters give every value but these, which are the model's:
the fields of a CLOSED record that no chapter gives a value, and the withdrawn flag (notes/assumptions/5.md, 18.md),
what an unwritten byte reads as (3.md), the asker of a QG (19.md), the link partner's hold and the messages on a link
(9.md, 10.md), and the model's own counters and queue (1.md, 8.md, 20.md). -/
def Obligations.FullResetValues : Prop :=
  State.reset = State.resetWith Straps.reset ∧
  ∀ pins : Straps,
    let t := State.resetWith pins
    (t.now = 0 ∧ t.straps = pins ∧ t.pins = pins)
    ∧ (t.tables.active = Bank.reset ∧ t.tables.staged = Bank.reset ∧ t.tables.retired = []
      ∧ t.tables.generation = 0 ∧ t.tables.walk = .idle)
    ∧ (Bank.reset.clips = [] ∧ Bank.reset.stations = []
      ∧ Bank.reset.policy = { retryLimit := 6, readTimeout := 250, probeWindow := 5, guardTime := 4,
                              starveLimit := 24, checkMode := .refetch, ceiling := 32192 }
      ∧ Bank.reset.shed.rules = Vector.replicate 4
          { enable := false, source := .lat1, level := .high, action := .demote, classes := 0 }
      ∧ Bank.reset.shed.lat1 = { high := 20000, low := 10000, debounce := 8 }
      ∧ Bank.reset.shed.lat2 = { high := 60000, low := 30000, debounce := 8 }
      ∧ Bank.reset.shed.tags = { high := 480, low := 384, debounce := 8 })
    ∧ (t.probes = 0 ∧ t.reservationSum = 0 ∧ ∀ h : Handle,
        let r := t.stream h
        r.state = .closed ∧ r.owner = none ∧ r.binding = none ∧ r.pauseReason = none ∧ r.probe = none
        ∧ r.probeExpiry = none ∧ r.reservation = 0 ∧ r.credit = 0 ∧ r.gaps = 0 ∧ r.delivered = 0 ∧ r.gapped = 0
        ∧ r.marks = 0 ∧ r.autoplay = false ∧ r.noticeLost = false ∧ r.demoted = false
        ∧ (r.rendition = .primary ∧ r.choice = .primary ∧ r.depth = 4 ∧ r.effDepth = 4 ∧ r.position = 0 ∧ r.stride = 1
          ∧ r.late = .skip ∧ r.withdrawn = false)
        ∧ t.window h = { slots := [], sending := [], cursor := none }
        ∧ t.cadence h = { anchor := 0, index := 0, nextDue := none, headWait := false, rate := none })
    ∧ (t.buffer.freeList = List.range 32768 ∧ t.buffer.spans = [] ∧ t.buffer.resting = [] ∧ t.buffer.waiting = []
      ∧ t.buffer.answers = [] ∧ ∀ y : Nat, Memory.read t.buffer.memory y = 0)
    ∧ (t.fetch.generations = Vector.replicate 512 0 ∧ t.fetch.continuations = [] ∧ t.fetch.enqueue = 0
      ∧ t.fetch.holdUntil = some 1000000 ∧ t.issuedCount = 0
      ∧ t.fetch.counts = { issues := 0, continuations := 0, completions := 0, failedAttempts := 0, timeouts := 0,
                           defers := 0, failures := 0, staleReplies := 0, mismatches := 0, refillDiscards := 0 })
    ∧ t.array = { linkUp := false, quiesce := .opened, control := [], toFloor := [], turn := .own, sending := none,
                  grantWaiting := none, asker := none, partnerHolds := false, onLink := [] }
    ∧ t.floor = { linkUp := false, toArray := [], partnerHolds := false, onLink := [] }
    ∧ t.tx = { queue := [], current := none, control := [], turns := [], turn := .frame, sending := none }
    ∧ (t.pressure.lat1 = { level := .low, run := 0 } ∧ t.pressure.lat2 = { level := .low, run := 0 }
      ∧ t.pressure.tags = { level := .low, run := 0 } ∧ ∀ r : RuleNumber, t.ruleState r = .disarmed)
    ∧ t.responder = { notices := [.ready], overflow := false, waiting := none }
    ∧ (t.nextSlot = 0 ∧ t.buffer.nextAnswer = 0 ∧ t.choices = 0 ∧ t.pending = [])

/-- Power-on, the reset pin and RESET PART return the part to its full-reset values, reading the straps again, and RESET
PART is not answered. That a RESET PART with a body longer than 8 bytes is answered BAD_FIELD and does not reset the
part is the model's choice against R183 (notes/assumptions/32.md). The queue of commands and the counter of free orders
are the model's own and stay (notes/assumptions/1.md, 8.md). -/
def Obligations.FullResetCommands : Prop :=
  (∀ (t : Nat) (pins : Straps) (s : State),
    exec (.powerOn t pins) s = .next { State.resetWith pins with choices := s.choices, pending := s.pending }
    ∧ exec (.resetPin t pins) s = .next { State.resetWith pins with choices := s.choices, pending := s.pending })
  ∧ ∀ (a : Arrival) (req : Word) (s : State), s.Taking .array a.src →
    (a.len = 8 → exec (.resetPart a req) s
      = .next { State.resetWith s.pins with choices := s.choices, pending := s.pending })
    ∧ (8 < a.len → exec (.resetPart a req) s
      = .next (State.settle ((s.stamp a.time).answerManage a.src req 15 .badField .empty)))

/-! ## What a port takes from its link -/

/-- A port takes nothing from a link that is DOWN; a message waits on the link while the port holds it; a message that
fails the source check, or the header checks, is discarded. What becomes of a message on a DOWN link, and that waiting
messages are kept in the state, are the model's (notes/assumptions/9.md, 10.md). The array port holds its link while 256
messages wait to be forwarded toward the floor or 16 in its transmit queue, the floor port while 256 wait to be
forwarded toward the array, and a message also waits behind one that waits. The header checks are those of the
Ethertype, of the lengths, of the source and of the kind; that a frame longer than 9,216 bytes is judged by them alone
is the model's (notes/assumptions/31.md). -/
def Obligations.LinkStateDecidesWhatIsTaken : Prop :=
  (∀ (c : Instr) (p : Port) (a : Arrival) (s : State), arrivalAt c = some (p, a) →
    (s.linkUp p = false → exec c s = .next (s.stamp a.time))
    ∧ (s.linkUp p = true → s.waits p = true → exec c s = .next ((s.stamp a.time).waitOnLink p c))
    ∧ (s.linkUp p = true → s.waits p = false → s.sourceOk p a.src = false → exec c s = .next (s.stamp a.time)))
  ∧ (∀ (c : Instr) (p : Port) (t : Nat) (f : Frame) (s : State), frameAt c = some (p, t, f) →
    (s.linkUp p = false → exec c s = .next (s.stamp t))
    ∧ (s.linkUp p = true → s.waits p = true → exec c s = .next ((s.stamp t).waitOnLink p c))
    ∧ (s.linkUp p = true → s.waits p = false → s.headerOk p f = false → exec c s = .next (s.stamp t)))
  ∧ ∀ s : State,
    (s.linkUp .array = s.array.linkUp ∧ s.linkUp .floor = s.floor.linkUp)
    ∧ (∀ c : Instr,
      s.waitOnLink .array c = { s with array := { s.array with onLink := s.array.onLink ++ [c] } }
      ∧ s.waitOnLink .floor c = { s with floor := { s.floor with onLink := s.floor.onLink ++ [c] } })
    ∧ (s.waits .array = true
      ↔ 256 ≤ s.array.toFloor.length ∨ 16 ≤ s.array.control.length ∨ s.array.onLink ≠ [])
    ∧ (s.waits .floor = true ↔ 256 ≤ s.floor.toArray.length ∨ s.floor.onLink ≠ [])
    ∧ (∀ src : Half,
      (s.sourceOk .array src = true ↔ src ≠ s.straps.station)
      ∧ (s.sourceOk .floor src = true ↔ src ≠ 0 ∧ src ≠ 0xFFFF ∧ src ≠ s.straps.station))
    ∧ ∀ (p : Port) (f : Frame),
      let half (i : Nat) : Half := f.getD i 0 ++ f.getD (i + 1) 0
      let kind := (f.getD 14 0).toNat
      let len := (half 20).toNat
      s.headerOk p f = true ↔ half 12 = s.straps.etherType ∧ 22 ≤ f.length ∧ len ≤ 8208 ∧ 22 + len ≤ f.length
        ∧ s.sourceOk p (half 18) = true ∧ (0x01 ≤ kind ∧ kind ≤ 0x0A ∨ 0x10 ≤ kind ∧ kind ≤ 0x17)

/-- A request whose body is too short for its request number and verb is discarded without an answer. -/
def Obligations.ShortRequestsAreDiscarded : Prop :=
  ∀ (c : Instr) (p : Port) (a : Arrival) (s : State), arrivalAt c = some (p, a) → isRequest c = true →
    s.Taking p a.src → a.len < 8 → exec c s = .next (s.stamp a.time).settle

/-- A frame that spells no command, because it fails a check or its kind and destination are discarded, has no effect
but the passing of time. A frame that spells a command, given as a malformed one, waits on its link as that command: the
model's choice (notes/assumptions/23.md). A frame that passes the header checks of its port spells what its kind and its
destination give. On the floor port an SQ, PY or CG for the part and a BR for another station spell a command, and on
the array port a BD, DF, QR, QE or MQ for the part, a BD or DF for another station, and an RN; every other frame spells
none, and so does an SQ or MQ too short for its request number and verb. The fields stand where chapter 10 lays them
out, most significant byte first; that a field beyond the end of a body reads as 0 is the model's
(notes/assumptions/21.md). -/
def Obligations.MalformedFramesHaveNoEffect : Prop :=
  (∀ (t : Nat) (p : Port) (f : Frame) (s : State),
    ((s.stamp t).commandOf p t f = none → exec (.malformedFrame t p f) s = .next (s.stamp t))
    ∧ (∀ c : Instr, (s.stamp t).commandOf p t f = some c → s.linkUp p = true →
      exec (.malformedFrame t p f) s = .next ((s.stamp t).waitOnLink p c))
    ∧ (s.linkUp p = false → exec (.malformedFrame t p f) s = .next (s.stamp t)))
  ∧ ∀ (s : State) (p : Port) (t : Nat) (f : Frame),
    let field (i : Nat) : Half := f.getD i 0 ++ f.getD (i + 1) 0
    let kind := f.getD 14 0
    let own : Prop := field 16 = s.straps.station
    let a : Arrival := { time := t, src := field 18, len := (field 20).toNat }
    let body := (f.drop 22).take a.len
    let byte (i : Nat) : Byte := body.getD i 0
    let half (i : Nat) : Half := byte i ++ byte (i + 1)
    let word (i : Nat) : Word := half i ++ half (i + 2)
    let long (i : Nat) : Long := word i ++ word (i + 4)
    let verb := byte 4
    let req := word 0
    let spelt := s.commandOf p t f
    (s.headerOk p f = false → spelt = none)
    ∧ (s.headerOk p f = true → p = .floor →
      (kind = 0x01 → (own → spelt = none) ∧ (¬ own → spelt = some (.stationBlockRead t f)))
      ∧ (kind = 0x10 → own →
        (a.len < 8 → spelt = none)
        ∧ (8 ≤ a.len →
          (verb = 1 → spelt = some (.openStream a req (word 8) (byte 12) (byte 13) (byte 14)))
          ∧ (verb = 2 → spelt = some (.prime a req (byte 5) (word 8) (byte 12)))
          ∧ (verb = 3 → spelt = some (.start a req (byte 5) (word 8) (byte 12)))
          ∧ (verb = 4 → spelt = some (.play a req (byte 5)))
          ∧ (verb = 5 → spelt = some (.pause a req (byte 5)))
          ∧ (verb = 6 → spelt = some (.seek a req (byte 5) (word 8) (byte 12)))
          ∧ (verb = 7 → spelt = some (.close a req (byte 5)))
          ∧ (verb = 0 ∨ 7 < verb → spelt = some (.unknownStationVerb a req verb (byte 5)))))
      ∧ (kind = 0x14 → own → spelt = some (.probeReply a (byte 0) (byte 1) (half 2)))
      ∧ (kind = 0x15 → own → spelt = some (.creditGrant a (byte 0) (byte 1)))
      ∧ (kind ∈ ([0x10, 0x14, 0x15] : List Byte) → ¬ own → spelt = none)
      ∧ (kind ∉ ([0x01, 0x10, 0x14, 0x15] : List Byte) → spelt = none))
    ∧ (s.headerOk p f = true → p = .array →
      (kind = 0x02 → own → spelt = some (.blockDataForPart a (half 0) (byte 2) (byte 3) ((byte 4).getLsbD 0)
        (half 6) (word 8) (body.drop 12)))
      ∧ (kind = 0x03 → own → spelt = some (.deferForPart a (half 0) (word 4)))
      ∧ (kind ∈ ([0x02, 0x03] : List Byte) → ¬ own → spelt = some (.forwardedArrayMessage t f))
      ∧ (kind = 0x04 → spelt = some (.rewriteNotice t f))
      ∧ (kind = 0x05 → own → spelt = some (.quiesceRequest a))
      ∧ (kind = 0x06 → own → spelt = some (.quiesceEnd a))
      ∧ (kind ∈ ([0x05, 0x06, 0x08] : List Byte) → ¬ own → spelt = none)
      ∧ (kind ∉ ([0x02, 0x03, 0x04, 0x05, 0x06, 0x08] : List Byte) → spelt = none)
      ∧ (kind = 0x08 → own → a.len < 8 → spelt = none)
      ∧ (kind = 0x08 → own → 8 ≤ a.len →
        let count (i : Nat) : Nat := (byte (i + 2)).toNat
        let record (i : Nat) : RenditionOffer :=
          { volume := byte i, extentCount := byte (i + 2), frameBlocks := half (i + 4), frameCount := word (i + 8)
            extents := (List.range (if count i ≤ 64 then count i else 0)).map (fun k =>
              { start := long (i + 12 + 12 * k), pages := word (i + 20 + 12 * k) }) }
        (verb = 1 → spelt = some (.stageClip a req
          { clipId := word 8, numerator := word 16, denominator := half 20, firstTimecode := word 24,
            primary := record 28,
            proxy := if (byte 22).getLsbD 0 = true then some (record (28 + (12 + 12 * count 28))) else none }))
        ∧ (verb = 2 → spelt = some (.unstageClip a req (word 8)))
        ∧ (verb = 3 → spelt = some (.stageStation a req (half 8) (byte 10) (byte 11)))
        ∧ (verb = 4 → spelt = some (.unstageStation a req (half 8)))
        ∧ (verb = 5 → spelt = some (.stagePolicy a req
          { retryLimit := byte 8, checkMode := byte 9, starveLimit := byte 10, readTimeout := half 12,
            probeWindow := byte 14, guardTime := byte 15, ceiling := word 16 }))
        ∧ (verb = 6 → spelt = some (.stageRule a req
          { rule := byte 8, enable := byte 9, source := byte 10, level := byte 11, action := byte 12,
            classes := byte 13, comparator := byte 14, debounce := byte 15, high := word 16, low := word 20 }))
        ∧ (verb = 7 → spelt = some (.discardStage a req))
        ∧ (verb = 8 → spelt = some (.commit a req))
        ∧ (verb = 9 → spelt = some (.clearShed a req (byte 8)))
        ∧ (verb = 10 → spelt = some (.readClip a req (word 8) (byte 12) (byte 13) (word 16)))
        ∧ (verb = 11 → spelt = some (.readStream a req (byte 8)))
        ∧ (verb = 12 → spelt = some (.readSpanCounts a req))
        ∧ (verb = 13 → spelt = some (.readFetchCounts a req))
        ∧ (verb = 14 → spelt = some (.resetStreams a req))
        ∧ (verb = 15 → spelt = some (.resetPart a req))
        ∧ (verb = 0 ∨ 15 < verb → spelt = some (.unknownManageVerb a req verb))))

/-! ## Control messages for stations -/

/-- A control message joins the end of the floor control queue while it holds fewer than 256; a message placed while it
holds 256 is dropped, and the live stream it concerns has its notice-lost flag set; one placed while the floor link is
DOWN is discarded. An SN goes to the stream's owner, carries the notice-lost flag and clears it when it is accepted. -/
def Obligations.ControlMessagesArePlacedOrDropped : Prop :=
  ∀ s : State,
    (∀ m : FloorControl, s.pushControl m = { s with tx := { s.tx with control := s.tx.control ++ [m] } })
    ∧ (∀ (h : Handle) (reason : Reason),
      ((s.stream h).owner = none → s.notify h reason = s)
      ∧ ∀ dst : Half, (s.stream h).owner = some dst → s.notify h reason = s.notifyTo dst h reason)
    ∧ (∀ (k : Option Handle) (m : FloorControl),
      (s.floor.linkUp = false → s.placeControl k m = s)
      ∧ (s.RoomFor 1 → s.placeControl k m = { s with tx := { s.tx with control := s.tx.control ++ [m] } })
      ∧ (s.floor.linkUp = true → 256 ≤ s.tx.control.length →
        (k = none → s.placeControl k m = s)
        ∧ ∀ h : Handle, k = some h →
          ((s.stream h).live = true →
            s.placeControl k m = s.setStream h { s.stream h with noticeLost := true })
          ∧ ((s.stream h).live = false → s.placeControl k m = s)))
    ∧ ∀ (dst : Half) (h : Handle) (reason : Reason),
      let r := s.stream h
      (s.floor.linkUp = false → s.notifyTo dst h reason = s)
      ∧ (s.RoomFor 1 → s.notifyTo dst h reason = (s.setStream h { r with noticeLost := false }).pushControl
          (.sn dst h r.state reason r.rendition r.noticeLost r.position))
      ∧ (s.floor.linkUp = true → 256 ≤ s.tx.control.length → r.live = true →
        s.notifyTo dst h reason = s.setStream h { r with noticeLost := true })

/-! ## OPEN -/

/-- OPEN makes its checks in order, and the first that fails refuses it with its result, in an SA that carries no
handle; a refused OPEN changes no record. -/
def Obligations.OpenIsRefusedByTheFirstFailingCheck : Prop :=
  ∀ (s : State) (a : Arrival) (req clip : Word) (choice depth late : Byte), s.Taking .floor a.src → 8 ≤ a.len →
    let refused (e : StreamResult) : Prop :=
      exec (.openStream a req clip choice depth late) s
        = .next (State.settle ((s.stamp a.time).answer a.src req 0xFF e))
    let fields : Prop := a.len = 16 ∧ clip ≠ 0 ∧ depth.toNat ≤ 12 ∧ (choice = 1 ∨ choice = 2 ∨ choice = 3)
      ∧ (late = 1 ∨ late = 2)
    (s.tables.active.station a.src = none → refused .notAdmitted)
    ∧ ∀ e : StationEntry, s.tables.active.station a.src = some e →
      (¬ fields → refused .badField)
      ∧ (fields → e.limit ≤ s.liveCount a.src → refused .stationLimit)
      ∧ (fields → s.liveCount a.src < e.limit → (∀ h : Handle, (s.stream h).live = true) → refused .noHandle)
      ∧ (fields → s.liveCount a.src < e.limit → (∃ h : Handle, (s.stream h).live = false) →
        (s.tables.active.clip clip = none → refused .noSuchClip)
        ∧ ∀ k : Clip, s.tables.active.clip clip = some k →
          (choice = 2 → k.proxy = none → refused .noProxy)
          ∧ ∀ (c : Choice) (l : LatePolicy) (d : Nat), openFields a.len clip choice depth late = some (c, l, d) →
            ¬ (c = .proxy ∧ k.proxy = none) →
            s.placement (s.shedsAtOpen a.src .demote) k c (s.openDepth a.src d) = none → refused .noBuffer)

/-- The fields of an OPEN are read by their codes, a depth of 0 being 4, and the rendition and the state of a new stream
follow from the choice, the clip, the DEMOTE rules that apply and the fit test. -/
def Obligations.OpenPlacementFollowsTheTable : Prop :=
  (∀ (clip : Word) (choice depth late : Byte), clip ≠ 0 → depth.toNat ≤ 12 →
    ∀ (c : Choice) (l : LatePolicy),
      (choice, c) ∈ [((1 : Byte), Choice.primary), (2, .proxy), (3, .auto)] →
      (late, l) ∈ [((1 : Byte), LatePolicy.skip), (2, .stall)] →
      openFields 16 clip choice depth late = some (c, l, if depth = 0 then 4 else depth.toNat))
  ∧ ∀ (s : State) (demote : Bool) (k : Clip) (choice : Choice) (d : Nat),
    let fits (pages : Nat) : Prop := s.reservationSum + pages ≤ s.tables.active.policy.ceiling
    let primary := d * k.primary.pageBound
    ((choice ≠ .proxy ∧ k.proxy = none ∨ choice = .primary ∧ demote = false) →
      (fits primary → s.placement demote k choice d = some (.idle, .primary))
      ∧ (¬ fits primary → s.placement demote k choice d = none))
    ∧ ∀ p : RenditionRecord, k.proxy = some p →
      ((choice = .proxy ∨ demote = true) →
        (fits (d * p.pageBound) → s.placement demote k choice d = some (.idle, .proxy))
        ∧ (¬ fits (d * p.pageBound) → s.placement demote k choice d = none))
      ∧ (choice = .auto → demote = false →
        (fits (d * max k.primary.pageBound p.pageBound) →
          s.placement demote k choice d = some (.negotiating, .primary))
        ∧ (¬ fits (d * max k.primary.pageBound p.pageBound) →
          (fits (d * p.pageBound) → s.placement demote k choice d = some (.idle, .proxy))
          ∧ (¬ fits (d * p.pageBound) → fits primary → s.placement demote k choice d = some (.idle, .primary))
          ∧ (¬ fits (d * p.pageBound) → ¬ fits primary → s.placement demote k choice d = none)))

/-- An accepted OPEN takes the lowest-numbered CLOSED record and fills it. A stream that enters IDLE is announced by an
SA and an SN OPENED; one that enters NEGOTIATING draws a probe number, starts its timer and sends an SA and a PB. A rule
applies at OPEN where it is TRIPPED and its mask holds the shed class of the station's active entry: its mark is set,
and its action is one that sheds at OPEN. -/
def Obligations.OpenFillsTheLowestClosedRecord : Prop :=
  ∀ (s : State) (a : Arrival) (req clip : Word) (choice depth late : Byte) (e : StationEntry) (c : Choice)
    (l : LatePolicy) (d : Nat) (h : Handle) (k : Clip) (st : StreamState) (q : Rendition),
    s.Taking .floor a.src → s.tables.active.station a.src = some e →
    openFields a.len clip choice depth late = some (c, l, d) → s.liveCount a.src < e.limit →
    (s.stream h).live = false → (∀ j : Handle, j < h → (s.stream j).live = true) →
    s.tables.active.clip clip = some k → ¬ (c = .proxy ∧ k.proxy = none) →
    let shallow := s.shedsAtOpen a.src .shallow
    let demote := s.shedsAtOpen a.src .demote
    let eff := if shallow then max 1 (d / 2) else d
    (∀ r : RuleNumber, (s.marksAtOpen a.src).getLsbD r.1 = true
      ↔ s.ruleState r = .tripped ∧ (s.rule r).classes.getLsbD e.shedClass = true)
    ∧ (∀ act : ShedAction, s.shedsAtOpen a.src act = true ↔ ∃ r : RuleNumber, s.ruleState r = .tripped
      ∧ (s.rule r).classes.getLsbD e.shedClass = true ∧ (s.rule r).action = act)
    ∧ (s.placement demote k c eff = some (st, q) →
    let pages := if st = .negotiating then max (k.bound .primary) (k.bound .proxy) else k.bound q
    let r : Stream :=
      { state := st, owner := some a.src, binding := some (k.clipId, k.edition.getD 0), rendition := q, choice := c,
        depth := d, effDepth := eff, position := 0, stride := 1, late := l, autoplay := false, credit := 0,
        reservation := eff * pages, marks := s.marksAtOpen a.src, pauseReason := none, gaps := 0, delivered := 0,
        gapped := 0, probe := none, probeExpiry := none, noticeLost := false, withdrawn := false,
        demoted := c != .proxy && q == .proxy && demote }
    let u := ((s.stamp a.time).setStream h r).answer a.src req (BitVec.ofNat 8 h.1) .accepted
    (st ≠ .negotiating →
      exec (.openStream a req clip choice depth late) s = .next (State.settle (u.notify h .opened)))
    ∧ (st = .negotiating →
      let timer := (max s.now a.time) + s.tables.active.policy.probeWindow * 1000
      let v := u.setStream h { u.stream h with probe := some s.probes, probeExpiry := some timer }
      exec (.openStream a req clip choice depth late) s = .next (State.settle
        (State.placeControl { v with probes := s.probes + 1 } (some h) (.pb a.src h s.probes k.primaryRate)))))

/-- OPEN keeps the reservation sum within the active ceiling. A rule that a read issued by the same event trips may
lower reservations further, and is left to the statements on rules. -/
def Obligations.OpenKeepsTheSumWithinTheCeiling : Prop :=
  ∀ (s t : State) (a : Arrival) (req clip : Word) (choice depth late : Byte), s.NoneArmed →
    s.reservationSum ≤ s.tables.active.policy.ceiling →
    exec (.openStream a req clip choice depth late) s = .next t →
    t.reservationSum ≤ t.tables.active.policy.ceiling

/-! ## The verbs on an open stream -/

/-- A verb other than OPEN makes the checks of R33 in order, and the first that fails refuses it with its result,
changing no record; a verb that is none of the seven is refused with BAD_FIELD. -/
def Obligations.StationVerbsAreRefusedInOrder : Prop :=
  ∀ (s : State) (a : Arrival) (req : Word) (b : Byte) (frame : Word) (stride : Byte),
    s.Taking .floor a.src → 8 ≤ a.len →
    let refused (e : StreamResult) (c : Instr) : Prop :=
      exec c s = .next (State.settle ((s.stamp a.time).answer a.src req b e))
    let moves : List Instr := [.prime a req b frame stride, .start a req b frame stride, .seek a req b frame stride]
    let plain : List Instr := [.play a req b, .pause a req b]
    let z := stride.toInt
    (∀ verb : Byte, refused .badField (.unknownStationVerb a req verb b))
    ∧ (a.len ≠ 16 ∨ 127 < b.toNat → ∀ c ∈ moves, refused .badField c)
    ∧ (a.len ≠ 8 ∨ 127 < b.toNat → ∀ c ∈ .close a req b :: plain, refused .badField c)
    ∧ ∀ h : Handle, Names b h →
      (¬ ((s.stream h).live = true ∧ (s.stream h).owner = some a.src) →
        (a.len = 16 → ∀ c ∈ moves, refused .notOwner c)
        ∧ (a.len = 8 → ∀ c ∈ .close a req b :: plain, refused .notOwner c))
      ∧ ((s.stream h).owner = some a.src →
        ∀ (st : StreamState) (e : StreamResult),
          (st, e) ∈ [(StreamState.faulted, StreamResult.faulted), (.closing, .closing), (.negotiating, .notReady)] →
          (s.stream h).state = st →
          (a.len = 16 → ∀ c ∈ moves, refused e c) ∧ (a.len = 8 → ∀ c ∈ plain, refused e c))
      ∧ (s.Usable a.src h → a.len = 16 →
        (z < -8 ∨ 8 < z → ∀ c ∈ moves, refused .badField c)
        ∧ (z = 0 → refused .badField (.prime a req b frame stride) ∧ refused .badField (.start a req b frame stride)
          ∧ (s.frameCount (s.stream h) ≤ frame.toNat → refused .badFrame (.seek a req b frame stride)))
        ∧ (-8 ≤ z → z ≤ 8 → z ≠ 0 → s.frameCount (s.stream h) ≤ frame.toNat → ∀ c ∈ moves, refused .badFrame c))

/-- PRIME, START and SEEK move a stream to a frame in PRIMING: the window is built from IDLE and re-targeted otherwise,
the SA follows, and a window without a PENDING slot completes priming at once. PRIME clears the autoplay flag and START
sets it; SEEK keeps the intent to play, and a step of 0 keeps the step. -/
def Obligations.PrimeStartAndSeekMoveTheStream : Prop :=
  ∀ (s : State) (a : Arrival) (req : Word) (b : Byte) (h : Handle) (frame : Word) (stride : Byte),
    s.Taking .floor a.src → Names b h → s.Usable a.src h → a.len = 16 →
    frame.toNat < s.frameCount (s.stream h) →
    let r := s.stream h
    let z := stride.toInt
    let moved (z : Int) (autoplay : Bool) : State :=
      let u := ((s.stamp a.time).setStream h { r with position := frame.toNat, stride := z, autoplay := autoplay,
                                                      state := .priming, pauseReason := none }).stopCadence h
      let w := if r.state = .idle then u.build h else u.retarget h
      State.settle ((w.answer a.src req b .accepted).reportPriming h)
    (-8 ≤ z → z ≤ 8 → z ≠ 0 →
      exec (.prime a req b frame stride) s = .next (moved z false)
      ∧ exec (.start a req b frame stride) s = .next (moved z true))
    ∧ (-8 ≤ z → z ≤ 8 →
      exec (.seek a req b frame stride) s
        = .next (moved (if z = 0 then r.stride else z)
            (decide (r.state = .playing ∨ r.state = .priming ∧ r.autoplay = true))))

/-- PLAY by the stream's state: from IDLE it starts priming with the autoplay flag set, in PRIMING it sets the flag, in
PLAYING it changes nothing, and from PRIMED and PAUSED the stream enters PLAYING with an anchor at now and index 0,
which is decided at once after the SN; a PAUSE mark holds it in PAUSED with reason SHED. -/
def Obligations.PlayActsByState : Prop :=
  ∀ (s : State) (a : Arrival) (req : Word) (b : Byte) (h : Handle),
    s.Taking .floor a.src → Names b h → s.Usable a.src h → a.len = 8 →
    let r := s.stream h
    let v := s.stamp a.time
    let ok := v.answer a.src req b .accepted
    (r.state = .idle →
      let u := (v.setStream h { r with autoplay := true, state := .priming, pauseReason := none }).stopCadence h
      exec (.play a req b) s
        = .next (State.settle (((u.build h).answer a.src req b .accepted).reportPriming h)))
    ∧ (r.state = .priming → exec (.play a req b) s
        = .next (State.settle ((v.setStream h { r with autoplay := true }).answer a.src req b .accepted)))
    ∧ (r.state = .playing → exec (.play a req b) s = .next ok.settle)
    ∧ (r.state = .primed ∨ r.state = .paused →
      (s.markedWith r .pause = false →
        let p := ok.setStream h { ok.stream h with state := .playing, pauseReason := none, gaps := 0 }
        let c := p.setCadence h { anchor := v.now, index := 0, nextDue := some v.now, headWait := false,
                                  rate := s.boundRate r }
        exec (.play a req b) s
          = .next (State.settle (((c.recomputeDeadlines h).notify h .playing).decideDue h)))
      ∧ (s.markedWith r .pause = true →
        (r.state = .paused ∧ r.pauseReason = some .shed → exec (.play a req b) s = .next ok.settle)
        ∧ (¬ (r.state = .paused ∧ r.pauseReason = some .shed) →
          let p := (ok.setStream h { ok.stream h with state := .paused, pauseReason := some .shed }).stopCadence h
          exec (.play a req b) s = .next (State.settle (p.notify h .pausedShed)))))

/-- PAUSE by the stream's state: PLAYING, or PAUSED for another reason, becomes PAUSED with reason STATION and an SN; in
PRIMING the autoplay flag is cleared; IDLE, PRIMED and PAUSED with reason STATION do not change. -/
def Obligations.PauseActsByState : Prop :=
  ∀ (s : State) (a : Arrival) (req : Word) (b : Byte) (h : Handle),
    s.Taking .floor a.src → Names b h → s.Usable a.src h → a.len = 8 →
    let r := s.stream h
    let v := s.stamp a.time
    let ok := v.answer a.src req b .accepted
    (r.state = .playing ∨ r.state = .paused ∧ r.pauseReason ≠ some .station →
      let p := (ok.setStream h { ok.stream h with state := .paused, pauseReason := some .station }).stopCadence h
      exec (.pause a req b) s = .next (State.settle (p.notify h .pausedStation)))
    ∧ (r.state = .priming → exec (.pause a req b) s
        = .next (State.settle ((v.setStream h { r with autoplay := false }).answer a.src req b .accepted)))
    ∧ (r.state = .idle ∨ r.state = .primed ∨ r.state = .paused ∧ r.pauseReason = some .station →
      exec (.pause a req b) s = .next ok.settle)

/-- CLOSE moves a live stream to CLOSING and detaches its window, answers ACCEPTED, and, where no slot is SENDING,
completes at once: the record is cleared and the SN CLOSED follows the SA. In CLOSING it changes nothing. A close
completes where the state is CLOSING and no slot is SENDING, and its SN is WITHDRAWN where the commit withdrew the
stream. That what it still holds is then detached, the window's slots first, is the model's (notes/assumptions/30.md). A
cleared record keeps its rendition, choice, depths, position, step and late policy, and its cadence and cursor end. -/
def Obligations.CloseEndsTheStream : Prop :=
  (∀ (s : State) (h : Handle),
    let r := s.stream h
    s.stopCadence h = s.setCadence h { s.cadence h with nextDue := none, headWait := false }
    ∧ (∀ o : Half, r.owner = some o →
      s.completeClose h = (((s.detachWindow h).detachSending h).clearRecord h).notifyTo o h
        (if r.withdrawn = true then .withdrawn else .closed))
    ∧ (r.state = .closing → (s.window h).sending = [] → s.finishClose h = s.completeClose h)
    ∧ (r.state ≠ .closing ∨ (s.window h).sending ≠ [] → s.finishClose h = s))
  ∧ (∀ (s : State) (a : Arrival) (req : Word) (b : Byte) (h : Handle),
    s.Taking .floor a.src → Names b h → (s.stream h).live = true → (s.stream h).owner = some a.src → a.len = 8 →
    let r := s.stream h
    let v := s.stamp a.time
    (r.state = .closing → exec (.close a req b) s = .next (State.settle (v.answer a.src req b .accepted)))
    ∧ (r.state ≠ .closing →
      let u := (v.setStream h { r with autoplay := false, probe := none, probeExpiry := none, withdrawn := false,
                                       state := .closing, pauseReason := none }).stopCadence h
      let w := (u.detachWindow h).answer a.src req b .accepted
      ((w.window h).sending ≠ [] → exec (.close a req b) s = .next w.settle)
      ∧ ((w.window h).sending = [] → exec (.close a req b) s = .next (State.settle
          ((((w.detachWindow h).detachSending h).clearRecord h).notifyTo a.src h .closed)))))
  ∧ ∀ (s : State) (h : Handle),
    let r := s.stream h
    let t := s.clearRecord h
    t.stream h = { state := .closed, owner := none, binding := none, rendition := r.rendition, choice := r.choice,
                   depth := r.depth, effDepth := r.effDepth, position := r.position, stride := r.stride,
                   late := r.late, autoplay := false, credit := 0, reservation := 0, marks := 0, pauseReason := none,
                   gaps := 0, delivered := 0, gapped := 0, probe := none, probeExpiry := none, noticeLost := false,
                   withdrawn := false, demoted := false }
    ∧ (t.cadence h).nextDue = none ∧ (t.cadence h).headWait = false ∧ (t.window h).cursor = none
    ∧ ∀ j : Handle, j ≠ h → t.stream j = s.stream j ∧ t.window j = s.window j ∧ t.cadence j = s.cadence j

/-- While no rule is ARMED, a message from a station never changes the record of a live stream that another station
owns, but for that stream's notice-lost flag, of which the statement says nothing (a dropped SA may set it). A rule that
a read issued by the same event trips may change other streams, and is left to the statements on rules. -/
def Obligations.StationsCannotChangeOthersStreams : Prop :=
  ∀ (c : Instr) (a : Arrival) (s t : State) (h : Handle), arrivalAt c = some (.floor, a) → s.NoneArmed →
    (s.stream h).live = true → (s.stream h).owner ≠ some a.src → exec c s = .next t →
    { t.stream h with noticeLost := (s.stream h).noticeLost } = s.stream h

/-! ## Windows -/

/-- A build of an empty window, and a re-target, leave the window with the first frames of the sequence from the
stream's position by its step, in order: as many as remain and as the effective depth and the sending set leave places
for. Top-up runs until the slots reach the effective depth or the cursor is exhausted, and not in a state that holds no
window. A re-target keeps every slot whose frame and rendition are wanted and that is not FAILED, with its serial number
(the model's name for a slot, notes/assumptions/20.md), its state and the pages it lists, gives it the deadline of its
new place, and leaves the sending set; the other places get new slots.

What these are made of is stated with them. A slot's deadline is the due time of its delivery index in PLAYING and
counts from now in any other state, less the guard; a new anchor gives every slot of the window its new deadline, which
reaches the spans that the slot names and their fetches. A page list has one entry for each volume page of the frame's
blocks. Each pass of a top-up creates a slot at the tail for the cursor's frame and moves the cursor on by the step. A
re-target detaches the slots that it does not keep, head first (the model's order, notes/assumptions/30.md), orders and
re-dates those kept, and creates the missing ones in sequence order, each in its place. A new slot attaches its pages in
list order and is READY where all were VALID. An attach finds a VALID or a FILLING span, joins a waiting key, takes a
span, or waits. A window, or a sending set, is detached slot by slot in its order, which is the model's too. A detach of
a slot detaches its pages in list order, from the span that it then names or from the allocation queue; a span that
loses its last use rests, becomes FREE, or stays as an orphan. -/
def Obligations.WindowsFollowTheSequence : Prop :=
  (∀ (s : State) (h : Handle),
    ((s.stream h).windowed = false → s.topUp h = s)
    ∧ ((s.stream h).windowed = true →
      ((s.topUp h).window h).cursor = none ∨ (s.stream h).effDepth ≤ ((s.topUp h).window h).count))
  ∧ (∀ (s : State) (h : Handle),
    let r := s.stream h
    let n := s.frameCount r
    let w := s.window h
    let wanted := (List.range (min (framesRemaining n r.position r.stride)
      (r.effDepth - w.sending.length))).filterMap (sequenceFrame n r.position r.stride)
    r.stride ≠ 0 → r.position < n →
    (r.windowed = true → w.slots = [] → ((s.build h).window h).slots.map Slot.frame = wanted)
    ∧ ((s.retarget h).window h).slots.map Slot.frame = wanted
    ∧ (((w.slots ++ w.sending).map Slot.serial).Nodup → (w.slots.map Slot.frame).Nodup →
      (∀ z ∈ w.slots ++ w.sending, z.serial < s.nextSlot) →
      let t := (s.retarget h).window h
      let kept (z : Slot) : Prop := z ∈ w.slots ∧ z.frame ∈ wanted ∧ z.rendition = r.rendition ∧ z.state ≠ .failed
      t.sending.map Slot.serial = w.sending.map Slot.serial
      ∧ t.cursor = sequenceFrame n r.position r.stride wanted.length
      ∧ ∀ (j : Nat) (y : Slot), t.slots[j]? = some y →
        y.deadline = s.slotDeadline h j ∧ y.rendition = r.rendition
        ∧ (∀ z : Slot, kept z → z.frame = y.frame →
          y.serial = z.serial ∧ y.state = z.state ∧ y.pages.map PageEntry.key = z.pages.map PageEntry.key)
        ∧ ((∀ z : Slot, kept z → z.frame ≠ y.frame) → s.nextSlot ≤ y.serial)))
  ∧ (∀ (s : State) (h : Handle),
    let c := s.cadence h
    let w := s.window h
    (∀ (n d j : Nat), s.boundRate (s.stream h) = some (n, d) →
      let due (i : Nat) : Nat := i * d * 1000000 / n
      let guard := s.tables.active.policy.guardTime * 1000
      ((s.stream h).state = .playing → s.slotDeadline h j = c.anchor + due (c.index + j) - guard)
      ∧ ((s.stream h).state ≠ .playing → s.slotDeadline h j = s.now + due j - guard))
    ∧ (∀ a : Nat, s.takeAnchor h a
      = (s.setCadence h { c with anchor := a, index := 0, nextDue := some a, headWait := false }).recomputeDeadlines h)
    ∧ (((w.slots ++ w.sending).map Slot.serial).Nodup → (s.recomputeDeadlines h).window h
      = { slots := w.slots.mapIdx (fun j z => { z with deadline := s.slotDeadline h j })
          sending := w.sending, cursor := w.cursor })
    ∧ s.recomputeDeadlines h
      = (w.slots.mapIdx (fun j z => (z.serial, j))).foldl (fun q e => q.setDeadline h e.1 (q.slotDeadline h e.2)) s
    ∧ ∀ (serial time : Nat) (z : Slot) (i : Nat) (x : Span), w.slot serial = some z → s.buffer.span i = some x →
      let u := s.setDeadline h serial time
      let refs := x.refs.map (fun r => if r.handle = h ∧ r.slot = serial then { r with deadline := time } else r)
      ((∀ e ∈ z.pages, e.span ≠ some i) → u.buffer.span i = some x)
      ∧ ((∃ e ∈ z.pages, e.span = some i) →
        ((∀ f : Fetch, x.state ≠ .filling f) → u.buffer.span i = some { x with refs := refs })
        ∧ ∀ f : Fetch, x.state = .filling f → refs ≠ [] → u.buffer.span i
          = some { x with refs := refs, state := .filling { f with deadline := earliest refs } }))
  ∧ (∀ (x : RenditionRecord) (f : Nat),
    let pages := x.extents.flatMap (fun e => (List.range e.pages).map (fun p => e.start / 256 + p))
    let lo := f * x.frameBlocks
    let hi := (f + 1) * x.frameBlocks - 1
    let n := hi / 256 + 1 - lo / 256
    (x.frameCount ≤ f → x.pageList f = [])
    ∧ (f < x.frameCount → hi / 256 < pages.length →
      (x.pageList f).length = n
      ∧ ∀ (i p : Nat), i < n → pages[lo / 256 + i]? = some p →
        let first := if i = 0 then lo % 256 else 0
        let last := if i + 1 = n then hi % 256 else 255
        (x.pageList f)[i]? = some { key := { volume := x.volume, page := p }, first := first,
                                    count := last + 1 - first, span := none }))
  ∧ (∀ (s : State) (r : Referrer),
    s.attachAll r [] = { state := s, pages := [], valid := true, mark := false }
    ∧ ∀ (e : PageEntry) (rest : List PageEntry),
      let a := s.attach r e.key
      let c := a.1.attachAll r rest
      s.attachAll r (e :: rest) = { state := c.state, pages := { e with span := a.2.span } :: c.pages,
                                    valid := a.2.valid && c.valid, mark := a.2.mark || c.mark })
  ∧ (∀ (s : State) (h : Handle) (f j : Nat) (x : RenditionRecord), s.boundRecord (s.stream h) = some x →
    let d := s.slotDeadline h j
    let w := s.window h
    let c := State.attachAll { s with nextSlot := s.nextSlot + 1 }
      { handle := h, slot := s.nextSlot, deadline := d, sending := false } (x.pageList f)
    let y : Slot := { serial := s.nextSlot, frame := f, rendition := (s.stream h).rendition, pages := c.pages,
                      deadline := d, state := if c.valid then .ready else .pending, checkFailed := c.mark,
                      stale := false }
    s.createSlot h f j = c.state.setWindow h { slots := w.slots.take j ++ y :: w.slots.drop j, sending := w.sending,
                                               cursor := w.cursor })
  ∧ (∀ (s : State) (r : Referrer) (k : Key),
    let b := s.buffer
    let gains (i : Nat) (x : Span) : State :=
      { s with buffer := { b.put i x with resting := b.resting.filter (fun j => j != i) } }
    let waits (l : List WaitingKey) : State × Attached :=
      ({ s with buffer := { b with waiting := l } }, { span := none, valid := false, mark := false })
    (∀ i : Nat, b.find k = some i → ∃ x : Span, (i, x) ∈ b.spans ∧ x.key = k ∧ x.state ≠ .stale)
    ∧ (b.find k = none → ∀ e ∈ b.spans, e.2.key = k → e.2.state = .stale)
    ∧ (∀ (i : Nat) (x : Span), b.find k = some i → b.span i = some x →
      (x.state = .valid → s.attach r k
        = (gains i { x with refs := x.refs ++ [r] }, { span := some i, valid := true, mark := x.checkFailed }))
      ∧ ∀ f : Fetch, x.state = .filling f → x.checkFailed = false → s.attach r k
        = (gains i { x with refs := x.refs ++ [r],
                            state := .filling { f with deadline := earliest (x.refs ++ [r]) } },
            { span := some i, valid := false, mark := false }))
    ∧ (b.find k = none →
      ((∃ w ∈ b.waiting, w.key = k) → s.attach r k
        = waits (b.waiting.map (fun w => if w.key = k then { w with slots := w.slots ++ [r] } else w)))
      ∧ ((∀ w ∈ b.waiting, w.key ≠ k) →
        (b.take = none → s.attach r k = waits (b.waiting ++ [{ key := k, slots := [r] }]))
        ∧ ∀ (i : Nat) (c : SpanBuffer), b.take = some (i, c) → s.attach r k
          = ({ s with fetch := { s.fetch with enqueue := s.fetch.enqueue + 1 }
                      buffer := c.put i { key := k, state := .filling (Fetch.create r.deadline s.fetch.enqueue),
                                          refs := [r], pins := 0, refill := false, checkFailed := false } },
              { span := some i, valid := false, mark := false }))))
  ∧ (∀ (b : SpanBuffer) (i : Nat) (l : List Nat),
    (b.freeList = i :: l → ∃ c : SpanBuffer, b.take = some (i, c) ∧ c.freeList = l ∧ c.resting = b.resting
      ∧ c.spans = b.spans ∧ c.waiting = b.waiting)
    ∧ (b.freeList = [] → b.resting = i :: l →
      b.take = some (i, { b with resting := l, spans := Keyed.drop b.spans i }))
    ∧ (b.freeList = [] → b.resting = [] → b.take = none))
  ∧ (∀ (s : State) (h : Handle) (serial : Nat) (z : Slot), (s.window h).slot serial = some z →
    let named (q : State) (k : Key) : Option Nat := ((q.window h).slot serial).bind
      (fun y => (y.pages.find? (fun e => e.key == k)).bind PageEntry.span)
    let leaves (q : State) (k : Key) : State :=
      let left (w : WaitingKey) : WaitingKey :=
        if w.key = k then { w with slots := w.slots.filter (fun r => !(r.handle == h && r.slot == serial)) } else w
      { q with buffer := { q.buffer with
        waiting := (q.buffer.waiting.map left).filter (fun w => !w.slots.isEmpty) } }
    let u := (z.pages.map PageEntry.key).foldl (fun q k => match named q k with
      | some i => q.detachSpan h serial i
      | none => leaves q k) s
    let w := u.window h
    s.detachSlot h serial = u.setWindow h { slots := w.slots.filter (fun y => y.serial != serial),
                                            sending := w.sending.filter (fun y => y.serial != serial),
                                            cursor := w.cursor })
  ∧ (∀ (s : State) (h : Handle) (serial i : Nat) (x : Span), s.buffer.span i = some x →
    let left := x.refs.filter (fun r => !(r.handle == h && r.slot == serial))
    let u := s.detachSpan h serial i
    let p := s.putSpan i { x with refs := left }
    let rests : State := State.serve { p with buffer := { p.buffer with resting := s.buffer.resting ++ [i] } }
    let freed : State := State.serve { s with buffer := { s.buffer with
      spans := Keyed.drop s.buffer.spans i, freed := s.buffer.freed ++ [i] } }
    ((∀ r ∈ x.refs, ¬ (r.handle = h ∧ r.slot = serial)) → u = s)
    ∧ ((∃ r ∈ x.refs, r.handle = h ∧ r.slot = serial) →
      (x.state = .valid → u = if left = [] ∧ x.pins = 0 then rests else p)
      ∧ (x.state = .stale → u = if left = [] ∧ x.pins = 0 then freed else p)
      ∧ ∀ f : Fetch, x.state = .filling f →
        (left ≠ [] →
          u = s.putSpan i { x with refs := left, state := .filling { f with deadline := earliest left } })
        ∧ (left = [] → f.state = .issued → u = p)
        ∧ (left = [] → f.state ≠ .issued → u = freed)))
  ∧ (∀ (s : State) (h : Handle),
    let r := s.stream h
    let w := s.window h
    (r.windowed = true → s.build h = (s.setWindow h { w with cursor := some r.position }).topUp h)
    ∧ (∀ l : List Nat, s.detachSlots h l = l.foldl (fun q serial => q.detachSlot h serial) s)
    ∧ s.detachWindow h = s.detachSlots h (w.slots.map Slot.serial)
    ∧ s.detachSending h = s.detachSlots h (w.sending.map Slot.serial)
    ∧ (w.cursor = none ∨ r.effDepth ≤ w.slots.length + w.sending.length → s.topUp h = s)
    ∧ ∀ f : Nat, r.windowed = true → w.cursor = some f → w.slots.length + w.sending.length < r.effDepth →
      let t := s.createSlot h f w.slots.length
      let next : Int := f + r.stride
      s.topUp h = (t.setWindow h { t.window h with
        cursor := if 0 ≤ next ∧ next < s.frameCount r then some next.toNat else none }).topUp h)
  ∧ ∀ (s : State) (h : Handle),
    let r := s.stream h
    let n := s.frameCount r
    let w := s.window h
    let wanted := (List.range (min (framesRemaining n r.position r.stride)
      (r.effDepth - w.sending.length))).filterMap (sequenceFrame n r.position r.stride)
    let unwanted := w.slots.filter (fun z => !(decide (z.frame ∈ wanted) && z.rendition == r.rendition
      && z.state != .failed))
    let u := (unwanted.map Slot.serial).foldl (fun q serial => q.detachSlot h serial) s
    let holds (q : State) (f : Nat) : Option Slot := (q.window h).slots.find? (fun z => z.frame == f)
    let v := u.setWindow h { u.window h with slots := wanted.filterMap (holds u) }
    let places := List.range wanted.length
    let dated := (places.filterMap (fun j => (wanted[j]?.bind (holds v)).map (fun z => (j, z.serial)))).foldl
      (fun q e => q.setDeadline h e.2 (q.slotDeadline h e.1)) v
    let filled := places.foldl (fun q j => match wanted[j]? with
      | some f => if holds q f = none then q.createSlot h f j else q
      | none => q) dated
    s.retarget h = filled.setWindow h { filled.window h with
      cursor := sequenceFrame n r.position r.stride wanted.length }

/-! ## Probe replies and credit -/

/-- A PY that matches its NEGOTIATING stream, and the expiry of its probe window, end the negotiation: the timer stops,
the rendition is the verdict's (PROXY at the expiry), the stream enters IDLE with the reservation of that rendition, and
an SN NEGOTIATED is sent. Every other PY, and an expiry whose time has not come, changes nothing (the timers acting at
their own commands are the model's, notes/assumptions/6.md). -/
def Obligations.NegotiationEndsByReplyOrExpiry : Prop :=
  ∀ (s : State) (h : Handle) (time : Nat),
    let r := s.stream h
    let ended (q : Rendition) : State :=
      let pages := match s.boundClip r with
        | none => 0
        | some k => r.effDepth * k.bound q
      let u := ((s.stamp time).setStream h { r with rendition := q, probe := none, probeExpiry := none, state := .idle,
                                                    pauseReason := none, reservation := pages }).stopCadence h
      State.settle (u.notify h .negotiated)
    (∀ (a : Arrival) (b verdict : Byte) (number : Half), a.time = time → s.Taking .floor a.src →
      let taken : Prop := a.len = 4 ∧ r.state = .negotiating ∧ r.owner = some a.src ∧ r.probe = some number
      (Names b h → taken → verdict = 1 → exec (.probeReply a b verdict number) s = .next (ended .primary))
      ∧ (Names b h → taken → verdict = 2 → exec (.probeReply a b verdict number) s = .next (ended .proxy))
      ∧ (127 < b.toNat ∨ Names b h ∧ (¬ taken ∨ verdict ≠ 1 ∧ verdict ≠ 2) →
        exec (.probeReply a b verdict number) s = .next (s.stamp time).settle))
    ∧ (∀ e : Nat, r.state = .negotiating → r.probeExpiry = some e → e ≤ max s.now time →
      exec (.probeWindowExpiry time h) s = .next (ended .proxy))
    ∧ ((r.state ≠ .negotiating ∨ ∀ e : Nat, r.probeExpiry = some e → max s.now time < e) →
      exec (.probeWindowExpiry time h) s = .next (s.stamp time).settle)

/-- A CG adds its count to the credit, which saturates at 255; it is dropped when its handle exceeds 127, its count is
0, its body has another length than 4, or the stream is CLOSED, CLOSING or another station's. For a PLAYING stream whose
head-wait flag is set, the wait is settled by a send or a gap with a new anchor at now, or goes on. -/
def Obligations.CreditGrantsAddCredit : Prop :=
  ∀ (s : State) (a : Arrival) (b n : Byte), s.Taking .floor a.src →
    (127 < b.toNat ∨ n = 0 ∨ a.len ≠ 4 → exec (.creditGrant a b n) s = .next (s.stamp a.time).settle)
    ∧ ∀ h : Handle, Names b h →
      let r := s.stream h
      (r.live = false ∨ r.state = .closing ∨ r.owner ≠ some a.src →
        exec (.creditGrant a b n) s = .next (s.stamp a.time).settle)
      ∧ (r.live = true → r.state ≠ .closing → r.owner = some a.src → n ≠ 0 → a.len = 4 →
        let u := (s.stamp a.time).setStream h { r with credit := min 255 (r.credit + n.toNat) }
        (¬ (r.state = .playing ∧ (s.cadence h).headWait = true) → exec (.creditGrant a b n) s = .next u.settle)
        ∧ (r.state = .playing → (s.cadence h).headWait = true →
          (u.outcome h = .wait → exec (.creditGrant a b n) s = .next u.settle)
          ∧ (∀ x : Slot, u.outcome h = .send x →
            exec (.creditGrant a b n) s = .next (State.settle ((u.takeAnchor h u.now).deliverSent h x)))
          ∧ (∀ (x : Slot) (why : GapCause), u.outcome h = .gap x why →
            exec (.creditGrant a b n) s = .next (State.settle ((u.takeAnchor h u.now).deliverGap h x why)))))

/-! ## Reads of stations and messages that cross the part -/

/-- A station's BR that is not answered locally is forwarded unchanged at the end of the queue toward the array, or
discarded while the array link is DOWN. -/
def Obligations.DeclinedStationReadsAreForwarded : Prop :=
  ∀ (s : State) (t : Nat) (f : Frame), s.TakingFrame .floor f → frameKind f = 1 → frameDst f ≠ s.straps.station →
    (∀ r : BlockRead, blockReadOf f = some r → s.answerable r = none) →
    (s.array.linkUp = true → exec (.stationBlockRead t f) s
      = .next (State.settle { s.stamp t with floor := { s.floor with toArray := s.floor.toArray ++ [f] } }))
    ∧ (s.array.linkUp = false → exec (.stationBlockRead t f) s = .next (s.stamp t).settle)

/-- A station's BR of a page that a VALID, unmarked span holds starts a local answer: the span gains a pin and leaves
the resting list, the first BD, of one or two blocks read from the span, is handed to the floor transmitter, and the
read is not forwarded. -/
def Obligations.StationReadsAreAnsweredLocally : Prop :=
  ∀ (s : State) (t : Nat) (f : Frame) (r : BlockRead) (i : Nat) (x : Span),
    s.TakingFrame .floor f → frameKind f = 1 → frameDst f ≠ s.straps.station → blockReadOf f = some r →
    s.buffer.find { volume := r.volume, page := r.start / 256 } = some i → s.buffer.span i = some x →
    x.state = .valid → x.checkFailed = false → s.buffer.answers.length < 64 →
    let n := min 2 r.count
    let u := (s.stamp t).startAnswer i r (frameSrc f) (frameDst f)
    exec (.stationBlockRead t f) s = .next u.settle
    ∧ u.buffer.span i = some { x with pins := x.pins + 1 }
    ∧ u.buffer.resting = s.buffer.resting.filter (fun j => j != i)
    ∧ u.floor = s.floor ∧ u.streams = s.streams ∧ u.buffer.memory = s.buffer.memory
    ∧ u.buffer.answers.length = s.buffer.answers.length + 1
    ∧ ∃ b ∈ u.buffer.answers, b.serial = s.buffer.nextAnswer ∧ b.station = frameSrc f ∧ b.handed = n
      ∧ b.count = r.count ∧ b.span = i ∧ ∃ d : AnswerData, b.ready = some d ∧ d.dst = frameSrc f
        ∧ d.src = frameDst f ∧ d.tag = r.tag ∧ d.offset = r.start % 256 ∧ d.count = n
        ∧ (d.final = true ↔ n = r.count) ∧ d.data = s.blocksOf i (r.start % 256) n

/-- A BD or DF addressed to a station joins the forwarding queue toward the floor unchanged, and its source of block
data the turn list; it is discarded while the floor link is DOWN. -/
def Obligations.ArrayMessagesAreForwarded : Prop :=
  ∀ (s : State) (t : Nat) (f : Frame), s.TakingFrame .array f → (frameKind f = 2 ∨ frameKind f = 3) →
    frameDst f ≠ s.straps.station →
    (s.floor.linkUp = true → exec (.forwardedArrayMessage t f) s = .next (State.settle
      { s.stamp t with
        array := { s.array with toFloor := s.array.toFloor ++ [f] }
        tx := { s.tx with turns := if TurnSource.forwarding ∈ s.tx.turns then s.tx.turns
                                   else s.tx.turns ++ [.forwarding] } }))
    ∧ (s.floor.linkUp = false → exec (.forwardedArrayMessage t f) s = .next (s.stamp t).settle)

/-- An RN is acted on, and passed on to the floor unless it is addressed to the part; one whose body fails is discarded
whole. It acts on the spans that the directory finds for the covered keys, one after the other (their order is the
model's, notes/assumptions/13.md). A FILLING span takes REFILL, and a resting one becomes FREE. A VALID span with users
is split: it becomes STALE, keeping its pins and its SENDING slots, which take the STALE mark; its other slots come to
name a new FILLING span of the key, whose fetch has their earliest deadline, or no span while the key waits; those that
were READY become PENDING, and their CHECK_FAILED mark is recomputed. A STALE span that a split leaves without users
becomes FREE (notes/assumptions/16.md). -/
def Obligations.RewriteNoticesActAndPassOn : Prop :=
  (∀ (s : State) (t : Nat) (f : Frame), s.TakingFrame .array f → frameKind f = 4 →
    (rewriteOf f = none → exec (.rewriteNotice t f) s = .next (s.stamp t).settle)
    ∧ ∀ w : Rewrite, rewriteOf f = some w →
      let u := (s.stamp t).rewrite w
      (frameDst f = s.straps.station → exec (.rewriteNotice t f) s = .next u.settle)
      ∧ (frameDst f ≠ s.straps.station → exec (.rewriteNotice t f) s = .next (State.settle (u.forwardToFloor f)))
      ∧ u.streams = s.streams ∧ u.buffer.memory = s.buffer.memory
      ∧ u = (s.covered w).foldl (fun z e => z.rewriteSpan e.1 e.2) (s.stamp t)
      ∧ (∀ (i : Nat) (k : Key), (i, k) ∈ s.covered w ↔ ∃ x : Span, (i, x) ∈ s.buffer.spans ∧ x.key = k
        ∧ x.state ≠ .stale ∧ k.volume = w.volume ∧ w.start / 256 ≤ k.page ∧ k.page ≤ (w.start + w.count - 1) / 256)
      ∧ (s.covered w = [] → u = s.stamp t)
      ∧ ∀ (i : Nat) (k : Key) (x : Span), s.covered w = [(i, k)] → s.buffer.span i = some x → x.key = k →
        (∀ g : Fetch, x.state = .filling g → u = (s.stamp t).putSpan i { x with refill := true })
        ∧ (x.state = .valid → x.refs = [] → x.pins = 0 → s.buffer.waiting = [] →
          u.buffer.span i = none ∧ u.buffer.freeList = s.buffer.freeList ++ [i]
          ∧ u.buffer.resting = s.buffer.resting.filter (fun j => j != i)))
  ∧ ∀ (s : State) (i : Nat) (x : Span), s.buffer.span i = some x →
    let u := s.rewriteSpan i x.key
    let freed (q : State) : State := State.serve { q with buffer := { q.buffer with
      spans := Keyed.drop q.buffer.spans i, freed := q.buffer.freed ++ [i] } }
    (∀ g : Fetch, x.state = .filling g → u = s.putSpan i { x with refill := true })
    ∧ (x.state = .valid → x.refs = [] → x.pins = 0 →
      u = freed { s with buffer := { s.buffer with resting := s.buffer.resting.filter (fun j => j != i) } })
    ∧ (x.state = .valid → x.refs ≠ [] ∨ x.pins ≠ 0 →
      let stays := x.refs.filter (fun r => r.sending)
      let moves := x.refs.filter (fun r => !r.sending)
      let p := s.putSpan i { x with state := .stale, refs := stays }
      let named (l : List Referrer) (h : Handle) (z : Slot) : Prop := ∃ r ∈ l, r.handle = h ∧ r.slot = z.serial
      let unused : Prop := stays = [] ∧ x.pins = 0
      let ends (q : State) (span : Option Nat) : Prop := ∃ windows : Vector Window 128,
        (∀ h : Handle,
          let slot (z : Slot) : Slot :=
            let y := if named stays h z then { z with stale := true } else z
            let y' := y.name x.key span
            if named moves h z then
              { y' with state := if y.state = .ready then .pending else y.state, checkFailed := q.pagesMarked y' }
            else y
          let w := s.window h
          windows[h] = { slots := w.slots.map slot, sending := w.sending.map slot, cursor := w.cursor })
        ∧ (¬ unused → u = { q with windows := windows }) ∧ (unused → u = freed { q with windows := windows })
      (moves = [] → ends p none)
      ∧ (moves ≠ [] → p.buffer.take = none →
        ends { p with buffer := { p.buffer with
          waiting := s.buffer.waiting ++ [{ key := x.key, slots := moves }] } } none)
      ∧ ∀ (j : Nat) (b : SpanBuffer), moves ≠ [] → p.buffer.take = some (j, b) → j ≠ i →
        ends { p with
          fetch := { s.fetch with enqueue := s.fetch.enqueue + 1 }
          buffer := b.put j { key := x.key, state := .filling (Fetch.create (earliest moves) s.fetch.enqueue),
                              refs := moves, pins := 0, refill := false, checkFailed := false } } (some j))

/-! ## Block data and defers for the part -/

/-- A BD whose tag is not current, or names a record whose continuation waits, is discarded and counted as stale. That
the report of an issued count of 0, by which a drain ends (R118), follows every BD and DF is read from the rules by the
model (notes/assumptions/11.md). -/
def Obligations.StaleBlockDataIsCounted : Prop :=
  ∀ (s : State) (a : Arrival) (tag : Half) (offset count : Byte) (final : Bool) (total : Half) (check : Word)
    (data : List Byte), s.Taking .array a.src →
    (s.currentTag tag.toNat = none ∨ ∃ (i : Nat) (f : Fetch), s.currentTag tag.toNat = some i ∧
      s.buffer.fetch i = some f ∧ f.waiting = true) →
    let n := s.fetch.counts
    let u : State := { s.stamp a.time with
      fetch := { s.fetch with counts := { n with staleReplies := n.staleReplies + 1 } } }
    exec (.blockDataForPart a tag offset count final total check data) s = .next u.drainEnd.settle

/-- An in-order BD without the FINAL flag is stored: its blocks stand in the span's page at their offsets, every other
byte of buffer memory is unchanged, and the blocks received and the running check word are extended. -/
def Obligations.BlockDataIsStoredInOrder : Prop :=
  ∀ (s : State) (a : Arrival) (tag : Half) (offset count : Byte) (total : Half) (check : Word) (data : List Byte)
    (i : Nat) (x : Span) (f : Fetch), s.Taking .array a.src → s.currentTag tag.toNat = some i →
    s.buffer.span i = some x → x.state = .filling f → f.waiting = false → (count = 1 ∨ count = 2) →
    a.len = 12 + 4096 * count.toNat → data.length = 4096 * count.toNat → offset.toNat = f.base + f.received →
    offset.toNat + count.toNat ≤ 256 →
    let address := (i * 256 + offset.toNat) * 4096
    let g : Fetch := { f with received := f.received + count.toNat, check := extendCheck f.check data }
    let u := ((s.stamp a.time).store address data).putSpan i { x with state := .filling g }
    exec (.blockDataForPart a tag offset count false total check data) s = .next u.drainEnd.settle
    ∧ u.buffer.span i = some { x with state := .filling g }
    ∧ Memory.readBytes u.buffer.memory address data.length = data
    ∧ ∀ y : Nat, y < address ∨ address + data.length ≤ y →
      Memory.read u.buffer.memory y = Memory.read s.buffer.memory y

/-- A BD of a current attempt that is out of order, or of a wrong shape, is a failed attempt and stores nothing; so is a
final BD whose total differs from the blocks received, or, in REFETCH mode, whose check word differs. In REPORT mode a
mismatch sets the report mark, is counted and hands over a notice, and the attempt is good. A good attempt that reaches
block 256 completes the page; a shorter one, while the port is OPEN, waits for its continuation, and returns to the
fetch queue at once where the port is not OPEN. -/
def Obligations.FinalBlockDataEndsTheAttempt : Prop :=
  ∀ (s : State) (a : Arrival) (tag : Half) (offset count : Byte) (final : Bool) (total : Half) (check : Word)
    (data : List Byte) (i : Nat) (x : Span) (f : Fetch), s.Taking .array a.src → s.currentTag tag.toNat = some i →
    s.buffer.span i = some x → x.state = .filling f → f.waiting = false →
    let inOrder : Prop := (count = 1 ∨ count = 2) ∧ a.len = 12 + 4096 * count.toNat
      ∧ offset.toNat = f.base + f.received ∧ offset.toNat + count.toNat ≤ 256
    let v := s.stamp a.time
    let g : Fetch := { f with received := f.received + count.toNat,
                              check := extendCheck f.check (data.take (4096 * count.toNat)) }
    let u := (v.store ((i * 256 + offset.toNat) * 4096) (data.take (4096 * count.toNat))).putSpan i
      { x with state := .filling g }
    let ends (w : State) : Prop :=
      exec (.blockDataForPart a tag offset count final total check data) s = .next w.drainEnd.settle
    (¬ inOrder → ends (v.failedAttempt i false))
    ∧ (inOrder → final = true →
      (total.toNat ≠ g.received → ends (u.failedAttempt i false))
      ∧ (total.toNat = g.received →
        (check ≠ g.check → s.tables.active.policy.checkMode = .refetch → ends (u.failedAttempt i true))
        ∧ (check ≠ g.check → s.tables.active.policy.checkMode = .report →
          let n := u.fetch.counts
          let w := u.putFetch i { g with report := true }
          let w : State := { w with fetch := { u.fetch with counts := { n with mismatches := n.mismatches + 1 } } }
          ends ((w.pushNotice (.checkFailed x.key)).goodAttempt i { g with report := true }))
        ∧ (check = g.check → g.base + g.received = 256 → ends (u.completePage i g))
        ∧ (check = g.check → g.base + g.received ≠ 256 → s.array.quiesce = .opened →
          let w := u.putFetch i { g with base := g.base + g.received, received := 0, issueTime := none,
                                         expiry := none, waiting := true }
          ends { w with fetch := { w.fetch with continuations := w.fetch.continuations ++ [i] } })
        ∧ (check = g.check → g.base + g.received ≠ 256 → s.array.quiesce ≠ .opened →
          let w := u.putFetch i { g with base := g.base + g.received, received := 0, issueTime := none,
                                         expiry := none }
          ends (((w.release i).sampleTags).requeue false i))))

/-- With no rule ARMED, a failed attempt, of whatever cause, ends the attempt, frees the tag and advances its
generation, gives TAGS a sample and counts. Below the retry limit the page is requeued with a new enqueue sequence and
its attempt base kept while a referrer wants it, and a span without referrers becomes FREE. At the limit the fetch
fails: a notice is handed over, CHECK_FAILED for a check-word failure and FETCH_FAILED otherwise, the failure is
counted, the span becomes FREE, and each slot that named it becomes FAILED and detaches its other pages; that the slots,
and then their streams, are told in the order of the span's referrers is the model's (notes/assumptions/13.md). A read
timeout whose expiry has been reached is a failed attempt and is counted; one that has not changes nothing (that it acts
at its own command is the model's, notes/assumptions/6.md). -/
def Obligations.ReadTimeoutsFailTheAttempt : Prop :=
  (∀ (s : State) (time : Nat) (tag : TagIndex),
    ((∀ (i : Nat) (f : Fetch), s.buffer.holder tag = some i → s.buffer.fetch i = some f →
        ∀ e : Nat, f.expiry = some e → max s.now time < e) →
      exec (.readTimeout time tag) s = .next (s.stamp time).drainEnd.settle)
    ∧ ∀ (i : Nat) (x : Span) (f : Fetch) (e : Nat), s.buffer.holder tag = some i → s.buffer.span i = some x →
      x.state = .filling f → f.tag = some tag → f.expiry = some e → e ≤ max s.now time →
      let v := s.stamp time
      let n := s.fetch.counts
      let w : State := { v with fetch := { s.fetch with counts := { n with timeouts := n.timeouts + 1 } } }
      let u := w.failedAttempt i false
      exec (.readTimeout time tag) s = .next u.drainEnd.settle
      ∧ (s.NoneArmed → x.refs ≠ [] → f.failures + 1 < s.tables.active.policy.retryLimit →
        let g : Fetch := { f with state := .queued, sequence := s.fetch.enqueue, failures := f.failures + 1,
                                  tag := none, received := 0, issueTime := none, expiry := none, waiting := false }
        u.buffer.span i = some { x with state := .filling g }
        ∧ u.fetch.enqueue = s.fetch.enqueue + 1
        ∧ u.fetch.generations = s.fetch.generations.set tag.1 (s.fetch.generations[tag] + 1) tag.2
        ∧ u.fetch.counts = { n with timeouts := n.timeouts + 1, failedAttempts := n.failedAttempts + 1 }
        ∧ u.streams = s.streams ∧ u.windows = s.windows ∧ u.buffer.memory = s.buffer.memory))
  ∧ (∀ (s : State) (i : Nat) (x : Span) (f : Fetch) (tag : TagIndex) (check : Bool), s.NoneArmed →
    s.buffer.span i = some x → x.state = .filling f → f.tag = some tag →
    let u := s.failedAttempt i check
    let n := s.fetch.counts
    let limit := s.tables.active.policy.retryLimit
    let v : State := { s with
      pressure := { s.pressure with
        tags := s.pressure.tags.sample s.tables.active.shed.tags (s.release i).issuedCount }
      fetch := { s.fetch with
        generations := s.fetch.generations.set tag.1 (s.fetch.generations[tag] + 1) tag.2
        continuations := s.fetch.continuations.filter (fun j => j != i)
        counts := { n with failedAttempts := n.failedAttempts + 1 } } }
    let freed (q : State) : State := State.serve { q with buffer := { q.buffer with
      spans := Keyed.drop q.buffer.spans i, freed := q.buffer.freed ++ [i] } }
    (f.failures + 1 < limit → x.refs ≠ [] →
      u = State.putSpan { v with fetch := { v.fetch with enqueue := s.fetch.enqueue + 1 } } i { x with
        state := .filling { f with state := .queued, sequence := s.fetch.enqueue, failures := f.failures + 1,
                                   tag := none, received := 0, issueTime := none, expiry := none, waiting := false } })
    ∧ (f.failures + 1 < limit → x.refs = [] → u = freed v)
    ∧ (limit ≤ f.failures + 1 →
      let m := v.pushNotice (if check then .checkFailed x.key else .fetchFailed x.key)
      let q : State := { m with fetch := { v.fetch with counts := { v.fetch.counts with failures := n.failures + 1 } } }
      u = ((freed q).failSlots x.key x.refs).windowsChanged (streamsOf x.refs)))
  ∧ ∀ (s : State) (k : Key) (r : Referrer) (rest : List Referrer),
    s.failSlots k [] = s ∧ s.failSlots k (r :: rest) = (s.failSlots k [r]).failSlots k rest
    ∧ ∀ y : Slot, (s.window r.handle).slot r.slot = some y →
      let w := s.detachKeys r.handle r.slot ((y.pages.map PageEntry.key).filter (fun j => j != k))
      let failed (z : Slot) : Slot :=
        if z.serial = r.slot then { z with state := .failed, pages := [], checkFailed := false, stale := false } else z
      let x := w.window r.handle
      s.failSlots k [r] = w.setWindow r.handle
        { slots := x.slots.map failed, sending := x.sending.map failed, cursor := x.cursor }

/-- With no rule ARMED, a page completion frees the tag, gives LAT1 and LAT2 the service time and TAGS the issued count,
and counts. Without REFILL the span becomes VALID with the report mark as its CHECK_FAILED mark: without referrers it
rests; with referrers its slots are told, take the mark, and become READY where every page they name is VALID, and then
their streams, both in the order of the span's referrers, which is the model's (notes/assumptions/13.md): a PRIMING
stream without a PENDING slot completes priming, and the wait of a PLAYING one may be settled. With REFILL the fill is
discarded and counted: the page is read again whole, under a new enqueue sequence, where a referrer wants it, and
otherwise the span becomes FREE. -/
def Obligations.PageCompletionMakesTheSpanValid : Prop :=
  (∀ (s : State) (i : Nat) (x : Span) (f : Fetch) (tag : TagIndex), s.NoneArmed → s.buffer.span i = some x →
    x.state = .filling f → f.tag = some tag → x.refill = false → x.refs = [] → s.buffer.waiting = [] →
    let u := s.completePage i f
    u.buffer.span i = some { x with state := .valid, checkFailed := f.report }
    ∧ u.buffer.resting = s.buffer.resting ++ [i]
    ∧ u.fetch.generations = s.fetch.generations.set tag.1 (s.fetch.generations[tag] + 1) tag.2
    ∧ u.fetch.counts = { s.fetch.counts with completions := s.fetch.counts.completions + 1 }
    ∧ u.streams = s.streams ∧ u.windows = s.windows ∧ u.buffer.memory = s.buffer.memory)
  ∧ (∀ (s : State) (i : Nat) (x : Span) (f : Fetch) (tag : TagIndex), s.NoneArmed → s.buffer.span i = some x →
    x.state = .filling f → f.tag = some tag → ∃ choices : Nat,
    let u := s.completePage i f
    let n := s.fetch.counts
    let service := s.now - f.firstIssue.getD s.now
    let shed := s.tables.active.shed
    let v : State := { s with
      choices := choices
      pressure := { lat1 := s.pressure.lat1.sample shed.lat1 service, lat2 := s.pressure.lat2.sample shed.lat2 service,
                    tags := s.pressure.tags.sample shed.tags (s.release i).issuedCount }
      fetch := { s.fetch with
        generations := s.fetch.generations.set tag.1 (s.fetch.generations[tag] + 1) tag.2
        continuations := s.fetch.continuations.filter (fun j => j != i)
        counts := { n with completions := n.completions + 1 } } }
    let valid := v.putSpan i { x with state := .valid, checkFailed := f.report }
    let discarded : State :=
      { v with fetch := { v.fetch with counts := { v.fetch.counts with refillDiscards := n.refillDiscards + 1 } } }
    (x.refill = false → x.refs = [] →
      u = State.serve { valid with buffer := { valid.buffer with resting := s.buffer.resting ++ [i] } })
    ∧ (x.refill = false → x.refs ≠ [] → u = (valid.fillSlots f.report x.refs).windowsChanged (streamsOf x.refs))
    ∧ (x.refill = true → x.refs ≠ [] →
      u = State.putSpan { discarded with fetch := { discarded.fetch with enqueue := s.fetch.enqueue + 1 } } i { x with
        refill := false
        state := .filling { f with state := .queued, sequence := s.fetch.enqueue, base := 0, received := 0,
                                   report := false, firstIssue := none, tag := none, issueTime := none,
                                   expiry := none, waiting := false } })
    ∧ (x.refill = true → x.refs = [] → u = State.serve { discarded with buffer := { s.buffer with
        spans := Keyed.drop s.buffer.spans i, freed := s.buffer.freed ++ [i] } }))
  ∧ (∀ (s : State) (mark : Bool) (r : Referrer) (rest : List Referrer),
    s.fillSlots mark [] = s ∧ s.fillSlots mark (r :: rest) = (s.fillSlots mark [r]).fillSlots mark rest
    ∧ (let valid (z : Slot) : Prop := ∀ e ∈ z.pages, ∃ (j : Nat) (y : Span), e.span = some j ∧ s.buffer.span j = some y
        ∧ y.state = .valid
      let u := s.fillSlots mark [r]
      (∃ filled : Slot → Slot,
        (∀ z : Slot, z.serial ≠ r.slot → filled z = z)
        ∧ (∀ z : Slot, z.serial = r.slot →
          (z.state = .pending → valid z → filled z = { z with state := .ready, checkFailed := z.checkFailed || mark })
          ∧ (z.state ≠ .pending ∨ ¬ valid z → filled z = { z with checkFailed := z.checkFailed || mark }))
        ∧ u = s.setWindow r.handle { slots := (s.window r.handle).slots.map filled,
                                     sending := (s.window r.handle).sending.map filled,
                                     cursor := (s.window r.handle).cursor })))
  ∧ ∀ (s : State) (h : Handle) (rest : List Handle),
    let r := s.stream h
    let c := s.cadence h
    let u := s.windowChanged h
    let done : Prop := (s.window h).slots ≠ [] ∧ ∀ z ∈ (s.window h).slots, z.state ≠ .pending
    s.windowsChanged [] = s ∧ s.windowsChanged (h :: rest) = u.windowsChanged rest
    ∧ (r.state = .priming → s.reportPriming h = u) ∧ (r.state ≠ .priming → s.reportPriming h = s)
    ∧ (r.state ≠ .priming → ¬ (r.state = .playing ∧ c.headWait = true) → u = s)
    ∧ (r.state = .priming → ¬ done → u = s)
    ∧ (r.state = .priming → done → r.autoplay = false →
      u = (State.stopCadence (s.setStream h { r with state := .primed, pauseReason := none }) h).notify h .primed)
    ∧ (r.state = .priming → done → r.autoplay = true →
      (s.markedWith r .pause = true →
        u = (State.stopCadence (s.setStream h { r with autoplay := false, state := .paused, pauseReason := some .shed })
          h).notify h .pausedShed)
      ∧ (s.markedWith r .pause = false →
        let p := s.setStream h { r with autoplay := false, state := .playing, pauseReason := none, gaps := 0 }
        let q := p.setCadence h { anchor := s.now, index := 0, nextDue := some s.now, headWait := false,
                                  rate := s.boundRate r }
        u = ((q.recomputeDeadlines h).notify h .playing).decideDue h))
    ∧ (r.state = .playing → c.headWait = true →
      (s.outcome h = .wait → u = s)
      ∧ (∀ z : Slot, s.outcome h = .send z → u = (s.takeAnchor h s.now).deliverSent h z)
      ∧ (∀ (z : Slot) (why : GapCause), s.outcome h = .gap z why → u = (s.takeAnchor h s.now).deliverGap h z why))

/-- A DF for a current tag of a record with an attempt out defers it, and a DF with tag ALL every record that holds a
tag, those whose continuation waits included: the tags are freed, TAGS takes one sample, the defers are counted, and
each page restarts. With a delay above 0 the record waits until now plus the delay; with a delay of 0 it is queued at
once with a new enqueue sequence; a span without referrers becomes FREE. Stated with no rule ARMED. A DF of another
length than 8, with a delay above 1,000,000 µs, of a tag that is not current, or of a waiting continuation, changes
nothing. Several records are taken by rising page index, the model's order (notes/assumptions/13.md, 17.md). -/
def Obligations.DefersHoldThePage : Prop :=
  (∀ (s : State) (a : Arrival) (tag : Half) (delay : Word), s.Taking .array a.src →
    (a.len ≠ 8 ∨ 1000000 < delay.toNat →
      exec (.deferForPart a tag delay) s = .next (s.stamp a.time).drainEnd.settle)
    ∧ (a.len = 8 → delay.toNat ≤ 1000000 → tag ≠ 0xFFFF →
      (s.currentTag tag.toNat = none ∨ ∃ (i : Nat) (f : Fetch), s.currentTag tag.toNat = some i ∧
        s.buffer.fetch i = some f ∧ f.waiting = true) →
      exec (.deferForPart a tag delay) s = .next (s.stamp a.time).drainEnd.settle)
    ∧ (a.len = 8 → delay.toNat ≤ 1000000 → exec (.deferForPart a 0xFFFF delay) s
      = .next (State.settle ((s.stamp a.time).deferSpans delay.toNat s.buffer.issued).drainEnd))
    ∧ (∀ i : Nat, i ∈ s.buffer.issued ↔ ∃ (x : Span) (f : Fetch) (index : TagIndex), (i, x) ∈ s.buffer.spans
      ∧ x.state = .filling f ∧ f.tag = some index)
    ∧ ∀ (i : Nat) (x : Span) (f : Fetch) (index : TagIndex), a.len = 8 → delay.toNat ≤ 1000000 → tag ≠ 0xFFFF →
      s.currentTag tag.toNat = some i → s.buffer.span i = some x → x.state = .filling f → f.waiting = false →
      f.tag = some index →
      let u := (s.stamp a.time).deferSpans delay.toNat [i]
      exec (.deferForPart a tag delay) s = .next u.drainEnd.settle
      ∧ (s.NoneArmed → x.refs ≠ [] → 0 < delay.toNat →
        let g : Fetch := { f with state := .deferred, notBefore := some (max s.now a.time + delay.toNat), base := 0,
                                  received := 0, report := false, tag := none, issueTime := none, expiry := none,
                                  waiting := false }
        u.buffer.span i = some { x with state := .filling g }
        ∧ u.fetch.generations = s.fetch.generations.set index.1 (s.fetch.generations[index] + 1) index.2
        ∧ u.fetch.counts = { s.fetch.counts with defers := s.fetch.counts.defers + 1 }
        ∧ u.streams = s.streams ∧ u.windows = s.windows ∧ u.buffer.memory = s.buffer.memory))
  ∧ (∀ (s : State) (delay : Nat) (spans : List Nat), s.NoneArmed →
    let w := spans.foldl State.release s
    let tags := s.pressure.tags.sample s.tables.active.shed.tags w.issuedCount
    let n := s.fetch.counts
    s.deferSpans delay spans = spans.foldl (fun q i => q.deferRecord delay i) { w with
      pressure := if spans = [] then s.pressure else { s.pressure with tags := tags }
      fetch := { w.fetch with counts := { n with defers := n.defers + BitVec.ofNat 32 spans.length } } })
  ∧ ∀ (s : State) (i : Nat) (x : Span) (f : Fetch), s.buffer.span i = some x → x.state = .filling f →
    (∀ index : TagIndex, f.tag = some index → s.release i = State.putSpan { s with fetch := { s.fetch with
        generations := s.fetch.generations.set index.1 (s.fetch.generations[index] + 1) index.2
        continuations := s.fetch.continuations.filter (fun j => j != i) } } i
      { x with state := .filling { f with tag := none, received := 0, issueTime := none, expiry := none,
                                          waiting := false } })
    ∧ ∀ delay : Nat,
      let u := s.deferRecord delay i
      (x.refs ≠ [] → 0 < delay → u = s.putSpan i { x with state := .filling { f with
        state := .deferred, notBefore := some (s.now + delay), base := 0, received := 0, report := false } })
      ∧ (x.refs ≠ [] → delay = 0 →
        u = State.putSpan { s with fetch := { s.fetch with enqueue := s.fetch.enqueue + 1 } } i { x with
          state := .filling { f with state := .queued, sequence := s.fetch.enqueue, base := 0, received := 0,
                                     report := false } })
      ∧ (x.refs = [] → u = State.serve { s with buffer := { s.buffer with
        spans := Keyed.drop s.buffer.spans i, freed := s.buffer.freed ++ [i] } })

/-- A DEFERRED record whose not-before time has been reached enters the fetch queue with a new enqueue sequence, and the
issue hold of a full reset ends when its time has been reached; before its time neither changes anything (that they act
at their own commands is the model's, notes/assumptions/6.md). -/
def Obligations.FetchTimersActAtTheirTime : Prop :=
  ∀ (s : State) (time : Nat),
    let now := max s.now time
    (∀ i : Nat,
      ((∀ (f : Fetch) (d : Nat), s.buffer.fetch i = some f → f.state = .deferred → f.notBefore = some d → now < d) →
        exec (.notBeforeTimeReached time i) s = .next (s.stamp time).settle)
      ∧ ∀ (x : Span) (f : Fetch) (d : Nat), s.buffer.span i = some x → x.state = .filling f → f.state = .deferred →
        f.notBefore = some d → d ≤ now →
        let g : Fetch := { f with state := .queued, notBefore := none, sequence := s.fetch.enqueue }
        let u := (s.stamp time).putSpan i { x with state := .filling g }
        exec (.notBeforeTimeReached time i) s
          = .next (State.settle { u with fetch := { s.fetch with enqueue := s.fetch.enqueue + 1 } }))
    ∧ (∀ e : Nat, s.fetch.holdUntil = some e → e ≤ now →
      exec (.issueHoldEnd time) s
        = .next (State.settle { s.stamp time with fetch := { s.fetch with holdUntil := none } }))
    ∧ ((∀ e : Nat, s.fetch.holdUntil = some e → now < e) →
      exec (.issueHoldEnd time) s = .next (s.stamp time).settle)

/-! ## Quiesce -/

/-- A QR taken in OPEN asks the part to stop its own reads: the state becomes QUIESCING, waiting continuations return,
and with no read out it becomes QUIESCED at once and a QG is placed. It is ignored in QUIESCING; in QUIESCED it repeats
the grant unless one waits. A QR of a body length other than 0 is discarded. The QR in OPEN is stated whole with no rule
ARMED and no continuation waiting, and in general by its parts: every record whose continuation waits gives up its tag,
TAGS takes one sample for all of them, and each is queued again with the attempt base and the enqueue sequence it had,
or, where its span has no referrers, ends with its span FREE; then the drain may end. That they return in the order of
the continuation list is the model's (notes/assumptions/13.md, 17.md). -/
def Obligations.QuiesceRequestsStopTheReads : Prop :=
  (∀ (s : State) (a : Arrival), s.Taking .array a.src →
    (a.len ≠ 0 → exec (.quiesceRequest a) s = .next (s.stamp a.time).settle)
    ∧ (a.len = 0 → s.array.quiesce = .quiescing → exec (.quiesceRequest a) s = .next (s.stamp a.time).settle)
    ∧ (a.len = 0 → s.array.quiesce = .quiesced →
      (s.grantPlaced = true → exec (.quiesceRequest a) s = .next (s.stamp a.time).settle)
      ∧ (s.grantPlaced = false → exec (.quiesceRequest a) s = .next (State.settle
        { s.stamp a.time with
          array := { s.array with asker := some a.src, control := s.array.control ++ [.qg a.src] } })))
    ∧ (a.len = 0 → s.array.quiesce = .opened →
      let u : State := { s.stamp a.time with array := { s.array with asker := some a.src, quiesce := .quiescing } }
      exec (.quiesceRequest a) s = .next u.leaveOpen.drainEnd.settle)
    ∧ (a.len = 0 → s.array.quiesce = .opened → s.NoneArmed → s.fetch.continuations = [] →
      (s.issuedCount ≠ 0 → exec (.quiesceRequest a) s = .next (State.settle
        { s.stamp a.time with array := { s.array with asker := some a.src, quiesce := .quiescing } }))
      ∧ (s.issuedCount = 0 → exec (.quiesceRequest a) s = .next (State.settle
        { s.stamp a.time with
          array := { s.array with asker := some a.src, quiesce := .quiesced,
                                  control := s.array.control ++ [.qg a.src] } }))))
  ∧ (∀ s : State,
    let l := s.fetch.continuations
    let u := l.foldl State.release s
    (l = [] → s.leaveOpen = s)
    ∧ (l ≠ [] → s.leaveOpen = l.foldl (fun q i => q.requeue false i) u.sampleTags))
  ∧ ∀ (s : State) (i : Nat) (x : Span) (f : Fetch), s.buffer.span i = some x → x.state = .filling f →
    (∀ tag : TagIndex, f.tag = some tag → s.release i = State.putSpan { s with fetch := { s.fetch with
        generations := s.fetch.generations.set tag.1 (s.fetch.generations[tag] + 1) tag.2
        continuations := s.fetch.continuations.filter (fun j => j != i) } } i
      { x with state := .filling { f with tag := none, received := 0, issueTime := none, expiry := none,
                                          waiting := false } })
    ∧ (x.refs ≠ [] → s.requeue false i = s.putSpan i { x with state := .filling { f with state := .queued } })
    ∧ (x.refs = [] → s.requeue false i = State.serve { s with buffer := { s.buffer with
        spans := Keyed.drop s.buffer.spans i, freed := s.buffer.freed ++ [i] } })

/-- A QE taken in QUIESCING or QUIESCED returns the port to OPEN and removes every QG that waits; in OPEN, and with a
body length other than 0, it has no effect. From QUIESCED the exit is a transition of the source QUIESCED, which changes
nothing further with no rule ARMED. -/
def Obligations.QuiesceEndsReopenThePort : Prop :=
  ∀ (s : State) (a : Arrival), s.Taking .array a.src →
    (a.len ≠ 0 ∨ s.array.quiesce = .opened → exec (.quiesceEnd a) s = .next (s.stamp a.time).settle)
    ∧ (a.len = 0 → s.array.quiesce ≠ .opened → s.NoneArmed →
      exec (.quiesceEnd a) s = .next (State.settle
        { s.stamp a.time with
          array := { s.array with quiesce := .opened, grantWaiting := none,
                                  control := s.array.control.filter (fun m => !m.isGrant) } }))
    ∧ (a.len = 0 →
      let u : State := { s.stamp a.time with
        array := { s.array with quiesce := .opened, grantWaiting := none,
                                control := s.array.control.filter (fun m => !m.isGrant) } }
      (s.array.quiesce = .quiescing → exec (.quiesceEnd a) s = .next u.settle)
      ∧ (s.array.quiesce = .quiesced → exec (.quiesceEnd a) s = .next (u.transition .quiesced).settle))

/-- The drain of a quiesce ends when no read is out: the port becomes QUIESCED and a QG joins the array transmit queue,
or waits in the port where the queue is full, for the station that asked (kept by the model, notes/assumptions/19.md).
In every other state a report changes nothing. The entry into QUIESCED is a transition of the source QUIESCED, taken
before the QG is placed, and changes nothing further with no rule ARMED. -/
def Obligations.TheDrainEndsWithAGrant : Prop :=
  ∀ (s : State) (time : Nat),
    (¬ (s.array.quiesce = .quiescing ∧ s.issuedCount = 0) → exec (.drainEnd time) s = .next (s.stamp time).settle)
    ∧ (s.array.quiesce = .quiescing → s.issuedCount = 0 → s.NoneArmed →
      let dst := s.array.asker.getD 0
      (s.array.control.length < 16 → exec (.drainEnd time) s = .next (State.settle
        { s.stamp time with
          array := { s.array with quiesce := .quiesced, control := s.array.control ++ [.qg dst] } }))
      ∧ (16 ≤ s.array.control.length → exec (.drainEnd time) s = .next (State.settle
        { s.stamp time with array := { s.array with quiesce := .quiesced, grantWaiting := some dst } })))
    ∧ (s.array.quiesce = .quiescing → s.issuedCount = 0 →
      let u := State.transition { s.stamp time with array := { s.array with quiesce := .quiesced } } .quiesced
      let dst := s.array.asker.getD 0
      u.array = { s.array with quiesce := .quiesced }
      ∧ (s.array.control.length < 16 → exec (.drainEnd time) s = .next (State.settle
        { u with array := { u.array with control := s.array.control ++ [.qg dst] } }))
      ∧ (16 ≤ s.array.control.length → exec (.drainEnd time) s = .next (State.settle
        { u with array := { u.array with grantWaiting := some dst } })))

/-! ## Management -/

/-- A verb that edits the staged bank is answered BUSY while the commit walk runs, with the result of the first check
that fails, or with OK once the edit is made; it changes nothing else. -/
def Obligations.StagingVerbsEditTheStagedBank : Prop :=
  ∀ (s : State) (a : Arrival) (req : Word) (offer : ClipOffer) (clip : Word) (n : Half) (shedClass limit : Byte)
    (policy : PolicyOffer) (rule : RuleOffer), s.Taking .array a.src → 8 ≤ a.len →
    let b := s.tables.staged
    let v := s.stamp a.time
    ∀ (c : Instr) (verb : Byte) (edit : Except ManageResult Bank),
      (c, verb, edit) ∈
        [(Instr.stageClip a req offer, (1 : Byte), b.stageClip a.len offer),
          (.unstageClip a req clip, 2, b.unstageClip a.len clip),
          (.stageStation a req n shedClass limit, 3, b.stageStation a.len s.straps.station n shedClass limit),
          (.unstageStation a req n, 4, b.unstageStation a.len n),
          (.stagePolicy a req policy, 5, b.stagePolicy a.len policy),
          (.stageRule a req rule, 6, b.stageRule a.len rule)] →
      (s.walking = true → exec c s = .next (State.settle (v.answerManage a.src req verb .busy .empty)))
      ∧ (s.walking = false →
        (∀ e : ManageResult, edit = .error e → exec c s = .next (State.settle (v.answerManage a.src req verb e .empty)))
        ∧ ∀ x : Bank, edit = .ok x → exec c s = .next (State.settle
            (State.answerManage { v with tables := { s.tables with staged := x } } a.src req verb .ok .empty)))

/-- STAGE STATION refuses an entry for station 0, 65,535 or the part's own, a shed class above 7, or a limit outside 1
to 8 with BAD_FIELD; an entry that passes replaces the staged one with its number or is added, or is refused with FULL
where the staged bank holds 64 others. -/
def Obligations.StageStationChecksItsEntry : Prop :=
  ∀ (s : State) (a : Arrival) (req : Word) (n : Half) (shedClass limit : Byte), s.Taking .array a.src →
    s.walking = false → a.len = 12 →
    let b := s.tables.staged
    let v := s.stamp a.time
    let bad : Prop := n = 0 ∨ n = 0xFFFF ∨ n = s.straps.station ∨ 7 < shedClass.toNat ∨ limit = 0 ∨ 8 < limit.toNat
    (bad → exec (.stageStation a req n shedClass limit) s
      = .next (State.settle (v.answerManage a.src req 3 .badField .empty)))
    ∧ (¬ bad → b.station n = none → 64 ≤ b.stations.length → exec (.stageStation a req n shedClass limit) s
      = .next (State.settle (v.answerManage a.src req 3 .full .empty)))
    ∧ (¬ bad → (b.station n ≠ none ∨ b.stations.length < 64) → ∃ x : Bank,
      exec (.stageStation a req n shedClass limit) s = .next (State.settle
        (State.answerManage { v with tables := { s.tables with staged := x } } a.src req 3 .ok .empty))
      ∧ x.station n = some { station := n, shedClass := shedClass.toNat, limit := limit.toNat }
      ∧ (∀ m : Half, m ≠ n → x.station m = b.station m)
      ∧ x.clips = b.clips ∧ x.policy = b.policy ∧ x.shed = b.shed)

/-- DISCARD STAGE makes every staged table equal to its active table and answers OK, with no other effect. -/
def Obligations.DiscardStageCopiesTheActiveBank : Prop :=
  ∀ (s : State) (a : Arrival) (req : Word), s.Taking .array a.src →
    (s.walking = false → a.len = 8 → exec (.discardStage a req) s = .next (State.settle
      (State.answerManage { s.stamp a.time with tables := { s.tables with staged := s.tables.active } }
        a.src req 7 .ok .empty)))
    ∧ (8 ≤ a.len → s.walking = true → exec (.discardStage a req) s
      = .next (State.settle ((s.stamp a.time).answerManage a.src req 7 .busy .empty)))

/-- The edits of the other staging verbs: which offers pass, with which result the others are refused, and what the
staged bank then finds. STAGE CLIP is refused with BAD_FIELD where its length or a field fails (the length is not judged
where an extent count lies outside 1 to 64), with SHORT_EXTENTS where a rendition's extents hold fewer blocks than its
frames, and with FULL; an entry that passes carries no edition, and each rendition the page bound that its frame blocks
give. STAGE POLICY and STAGE RULE replace a record whole, or are refused with BAD_FIELD; STAGE RULE also replaces the
settings of the comparator it names. -/
def Obligations.StagedBankEdits : Prop :=
  ∀ (b : Bank),
    (∀ (len : Nat) (clip : Word), (len ≠ 12 → b.unstageClip len clip = .error .badField)
      ∧ (b.clip clip = none → b.unstageClip 12 clip = .error .noSuch)
      ∧ (b.clip clip ≠ none → ∃ x : Bank, b.unstageClip 12 clip = .ok x ∧ x.clip clip = none
        ∧ (∀ j : Word, j ≠ clip → x.clip j = b.clip j) ∧ x = { b with clips := x.clips }))
    ∧ (∀ (len : Nat) (n : Half), (len ≠ 12 → b.unstageStation len n = .error .badField)
      ∧ (b.station n = none → b.unstageStation 12 n = .error .noSuch)
      ∧ (b.station n ≠ none → ∃ x : Bank, b.unstageStation 12 n = .ok x ∧ x.station n = none
        ∧ (∀ j : Half, j ≠ n → x.station j = b.station j) ∧ x = { b with stations := x.stations }))
    ∧ (∀ (len : Nat) (o : ClipOffer),
      let count (r : RenditionOffer) : Nat := r.extentCount.toNat
      let counted (r : RenditionOffer) : Prop := 1 ≤ count r ∧ count r ≤ 64
      let lengthOk : Prop := match o.proxy with
        | none => counted o.primary → len = 8 + 20 + (12 + 12 * count o.primary)
        | some q => counted o.primary → counted q →
          len = 8 + 20 + (12 + 12 * count o.primary) + (12 + 12 * count q)
      let blocks (e : ExtentOffer) : Nat := 256 * e.pages.toNat
      let placed (e : ExtentOffer) : Prop := e.start.toNat % 256 = 0 ∧ 1 ≤ e.pages.toNat ∧ e.pages.toNat ≤ 65536
        ∧ e.start.toNat + blocks e ≤ 2 ^ 40
      let apart (x y : ExtentOffer) : Prop := x.start.toNat + blocks x ≤ y.start.toNat
        ∨ y.start.toNat + blocks y ≤ x.start.toNat
      let renditionOk (r : RenditionOffer) : Prop := 1 ≤ r.frameBlocks.toNat ∧ r.frameBlocks.toNat ≤ 16384
        ∧ 1 ≤ r.frameCount.toNat ∧ r.frameCount.toNat ≤ 16777216 ∧ counted r ∧ (∀ e ∈ r.extents, placed e)
        ∧ r.extents.Pairwise apart
      let fieldsOk : Prop := o.clipId ≠ 0 ∧ 1 ≤ o.numerator.toNat ∧ o.numerator.toNat ≤ 120000
        ∧ 1 ≤ o.denominator.toNat ∧ o.denominator.toNat ≤ 1001 ∧ o.denominator.toNat ≤ o.numerator.toNat
        ∧ o.numerator.toNat ≤ 120 * o.denominator.toNat ∧ o.firstTimecode.toNat ≤ 2147483647 ∧ renditionOk o.primary
        ∧ ∀ q : RenditionOffer, o.proxy = some q → renditionOk q ∧ q.frameCount = o.primary.frameCount
      let enough (r : RenditionOffer) : Prop :=
        r.frameCount.toNat * r.frameBlocks.toNat ≤ (r.extents.map blocks).sum
      let enoughBlocks : Prop := enough o.primary ∧ ∀ q : RenditionOffer, o.proxy = some q → enough q
      let bound (n : Nat) : Nat := if n % 256 = 0 then n / 256 else n / 256 + 2
      let record (r : RenditionOffer) : RenditionRecord :=
        { volume := r.volume.toNat, frameBlocks := r.frameBlocks.toNat, frameCount := r.frameCount.toNat,
          extents := r.extents.map (fun e => { start := e.start.toNat, pages := e.pages.toNat }),
          pageBound := bound r.frameBlocks.toNat }
      (¬ (lengthOk ∧ fieldsOk) → b.stageClip len o = .error .badField)
      ∧ (lengthOk → fieldsOk → ¬ enoughBlocks → b.stageClip len o = .error .shortExtents)
      ∧ (lengthOk → fieldsOk → enoughBlocks →
        (b.clip o.clipId = none → 1024 ≤ b.clips.length → b.stageClip len o = .error .full)
        ∧ ((b.clip o.clipId ≠ none ∨ b.clips.length < 1024) → ∃ x : Bank, b.stageClip len o = .ok x
          ∧ x.clip o.clipId = some { clipId := o.clipId, edition := none, numerator := o.numerator.toNat,
                                     denominator := o.denominator.toNat, firstTimecode := o.firstTimecode.toNat,
                                     primary := record o.primary, proxy := o.proxy.map record }
          ∧ (∀ j : Word, j ≠ o.clipId → x.clip j = b.clip j) ∧ x = { b with clips := x.clips })))
    ∧ (∀ (len : Nat) (o : PolicyOffer),
      let ok : Prop := 1 ≤ o.retryLimit.toNat ∧ o.retryLimit.toNat ≤ 15 ∧ 1 ≤ o.readTimeout.toNat
        ∧ o.readTimeout.toNat ≤ 1000 ∧ 1 ≤ o.probeWindow.toNat ∧ o.probeWindow.toNat ≤ 50 ∧ o.guardTime.toNat ≤ 50
        ∧ 1 ≤ o.starveLimit.toNat ∧ 1 ≤ o.ceiling.toNat ∧ o.ceiling.toNat ≤ 32192
        ∧ (o.checkMode = 1 ∨ o.checkMode = 2)
      (¬ (len = 20 ∧ ok) → b.stagePolicy len o = .error .badField)
      ∧ (ok → b.stagePolicy 20 o = .ok { b with policy :=
          { retryLimit := o.retryLimit.toNat, readTimeout := o.readTimeout.toNat, probeWindow := o.probeWindow.toNat,
            guardTime := o.guardTime.toNat, starveLimit := o.starveLimit.toNat,
            checkMode := if o.checkMode = 1 then .report else .refetch, ceiling := o.ceiling.toNat } }))
    ∧ ∀ (len : Nat) (o : RuleOffer),
      let codesOk : Prop := o.rule.toNat ≤ 3 ∧ (o.enable = 0 ∨ o.enable = 1)
        ∧ (o.source = 1 ∨ o.source = 2 ∨ o.source = 3 ∨ o.source = 4) ∧ (o.level = 1 ∨ o.level = 2)
        ∧ (o.action = 1 ∨ o.action = 2 ∨ o.action = 3) ∧ o.comparator.toNat ≤ 3
      let settingsOk : Prop := o.comparator ≠ 0 → o.low.toNat < o.high.toNat ∧ 1 ≤ o.debounce.toNat
        ∧ (o.comparator ≠ 3 → 2 ≤ o.high.toNat ∧ o.high.toNat ≤ 60000000 ∧ 1 ≤ o.low.toNat)
        ∧ (o.comparator = 3 → o.high.toNat ≤ 512)
      (¬ (len = 24 ∧ codesOk ∧ settingsOk) → b.stageRule len o = .error .badField)
      ∧ ∀ (r : RuleNumber) (src : Source) (l : Level) (act : ShedAction), settingsOk → o.rule.toNat = r.1 →
        (o.enable = 0 ∨ o.enable = 1) →
        (o.source, src) ∈ [((1 : Byte), Source.lat1), (2, .lat2), (3, .tags), (4, .quiesced)] →
        (o.level, l) ∈ [((1 : Byte), Level.high), (2, .low)] →
        (o.action, act) ∈ [((1 : Byte), ShedAction.demote), (2, .shallow), (3, .pause)] →
        let rule : ShedRule := { enable := o.enable == 1, source := src, level := l, action := act,
                                 classes := o.classes }
        let shed : ShedSettings := { b.shed with rules := b.shed.rules.set r.1 rule r.2 }
        let settings : Settings := { high := o.high.toNat, low := o.low.toNat, debounce := o.debounce.toNat }
        (o.comparator = 0 → b.stageRule 24 o = .ok { b with shed := shed })
        ∧ (o.comparator = 1 → b.stageRule 24 o = .ok { b with shed := { shed with lat1 := settings } })
        ∧ (o.comparator = 2 → b.stageRule 24 o = .ok { b with shed := { shed with lat2 := settings } })
        ∧ (o.comparator = 3 → b.stageRule 24 o = .ok { b with shed := { shed with tags := settings } })

/-- COMMIT is refused with BUSY while the walk runs, SHED_PENDING while a rule is TRIPPED, and CEILING where the staged
ceiling lies below the reservation sum. Otherwise the staged bank becomes active: the generation rises by 1, entries
whose fields change take it as their edition, entries that leave or change are retired, the walk starts at handle 0 for
the requester, each comparator whose settings change starts its run again at its level, and every rule is DISARMED,
ARMED, or TRIPPED where its source is at its match level. The rules that become ARMED are evaluated in rule-number order
under the new tables, and each that trips does so whole, as at a transition, before the next. Two entries have the same
fields where clip ID, rate, first timecode, and presence and geometry of each rendition agree. -/
def Obligations.CommitChecksAndSwaps : Prop :=
  (∀ (s : State) (a : Arrival) (req : Word), s.Taking .array a.src → 8 ≤ a.len →
    let v := s.stamp a.time
    let refused (e : ManageResult) : Prop :=
      exec (.commit a req) s = .next (State.settle (v.answerManage a.src req 8 e .empty))
    (s.walking = true → refused .busy)
    ∧ (s.walking = false → a.len ≠ 8 → refused .badField)
    ∧ (s.walking = false → a.len = 8 →
      ((∃ r : RuleNumber, s.ruleState r = .tripped) → refused .shedPending)
      ∧ ((∀ r : RuleNumber, s.ruleState r ≠ .tripped) →
        (s.tables.staged.policy.ceiling < s.reservationSum → refused .ceiling)
        ∧ (s.reservationSum ≤ s.tables.staged.policy.ceiling →
          let g := s.tables.generation + 1
          let old := s.tables.active
          let new := s.tables.staged
          let entry (c : Clip) : Clip := match old.clip c.clipId with
            | some x => if c.sameFields x then x else { c with edition := some g }
            | none => { c with edition := some g }
          let leaves (x : Clip) : Bool := match new.clip x.clipId with
            | some c => !c.sameFields x
            | none => true
          let tables : TableStore :=
            { active := { new with clips := new.clips.map entry }, staged := new, retired := old.clips.filter leaves,
              generation := g, walk := .walking 0 a.src req }
          let swap (c : Comparator) (x y : Settings) : Comparator := if x = y then c else { c with run := 0 }
          let pressure : PressureMonitor :=
            { lat1 := swap s.pressure.lat1 old.shed.lat1 new.shed.lat1
              lat2 := swap s.pressure.lat2 old.shed.lat2 new.shed.lat2
              tags := swap s.pressure.tags old.shed.tags new.shed.tags }
          let fresh : State := { v with
            tables := tables, pressure := pressure
            rules := new.shed.rules.map (fun x => if x.enable then RuleState.armed else RuleState.disarmed) }
          let u := ([0, 1, 2, 3] : List RuleNumber).foldl (fun (q : State) r =>
            if q.ruleState r = .armed ∧ s.level new.shed.rules[r].source = new.shed.rules[r].level then q.trip r
            else q) fresh
          exec (.commit a req) s = .next u.settle ∧ u.tables = tables ∧ u.pressure = pressure
          ∧ ∀ r : RuleNumber,
            let x := new.shed.rules[r]
            (x.enable = false → u.ruleState r = .disarmed)
            ∧ (x.enable = true → s.level x.source = x.level → u.ruleState r = .tripped)
            ∧ (x.enable = true → s.level x.source ≠ x.level → u.ruleState r = .armed)))))
  ∧ ∀ x y : Clip,
    let same (p q : RenditionRecord) : Prop :=
      p.volume = q.volume ∧ p.frameBlocks = q.frameBlocks ∧ p.frameCount = q.frameCount ∧ p.extents = q.extents
    x.sameFields y = true ↔ x.clipId = y.clipId ∧ x.numerator = y.numerator ∧ x.denominator = y.denominator
      ∧ x.firstTimecode = y.firstTimecode ∧ same x.primary y.primary
      ∧ (x.proxy = none ∧ y.proxy = none ∨ ∃ p q, x.proxy = some p ∧ y.proxy = some q ∧ same p q)

/-- The commit walk visits the next handle: a CLOSED or CLOSING record and a FAULTED one whose station is present are
left; a stream whose station is absent is closed with reason WITHDRAWN; a stream whose clip or rendition is gone faults;
one bound to an older edition is re-bound. After handle 127 the walk ends: the active bank is copied into the staged
bank, the retired entries go, and the requester is answered OK, or the answer waits for a place. A visit or an end that
the walk's state does not call for changes nothing (notes/assumptions/6.md). A stream that faults has its frames
abandoned and its slots detached, loses its probe, marks and reservation, and sends its SN; a withdrawn one closes as by
CLOSE, without an SA; a re-bind takes the new edition and reservation, or faults where the raise does not fit, ends a
negotiation without a proxy, takes a new anchor where the rate of a PLAYING stream changes, and rebuilds the window
where the geometry does. The order in which slots are detached is the model's (notes/assumptions/30.md), and so is that
a fault tops up no window and ends no clip before its release (notes/assumptions/34.md). -/
def Obligations.TheCommitWalkVisitsAndEnds : Prop :=
  (∀ (s : State) (time : Nat),
    let v := s.stamp time
    (s.tables.walk = .idle → exec (.commitWalkVisit time) s = .next v.settle
      ∧ exec (.commitWalkEnd time) s = .next v.settle)
    ∧ ∀ (n : Nat) (asker : Half) (req : Word), s.tables.walk = .walking n asker req →
      (∀ h : Handle, n = h.1 →
        let r := s.stream h
        let here : Prop := ∃ (o : Half), r.owner = some o ∧ s.tables.active.station o ≠ none
        exec (.commitWalkEnd time) s = .next v.settle
        ∧ exec (.commitWalkVisit time) s = .next (State.settle ((v.visit h).setWalk (.walking (n + 1) asker req)))
        ∧ (r.state = .closed ∨ r.state = .closing → v.visit h = v)
        ∧ (r.state ≠ .closed → r.state ≠ .closing → ¬ here → v.visit h = (v.beginClose h true).finishClose h)
        ∧ (r.state = .faulted → here → v.visit h = v)
        ∧ (r.state ≠ .closed → r.state ≠ .closing → r.state ≠ .faulted → here →
          ∀ (i e : Word), r.binding = some (i, e) →
            (s.tables.active.clip i = none → v.visit h = v.faultStream h .clipWithdrawn)
            ∧ ∀ k : Clip, s.tables.active.clip i = some k →
              (k.record r.rendition = none → v.visit h = v.faultStream h .renditionWithdrawn)
              ∧ ∀ x : RenditionRecord, k.record r.rendition = some x →
                (x.frameCount ≤ r.position → v.visit h = v.faultStream h .renditionWithdrawn)
                ∧ (r.position < x.frameCount → k.edition = some e → v.visit h = v)
                ∧ (r.position < x.frameCount → ∀ e' : Word, k.edition = some e' → e' ≠ e →
                  v.visit h = v.rebind h k e')))
      ∧ (128 ≤ n →
        let u : State :=
          { v with tables := { s.tables with staged := s.tables.active, retired := [], walk := .idle } }
        let m : ManageAnswer := { dst := asker, req := req, verb := 8, result := .ok, walking := false,
                                  generation := s.tables.generation, body := .empty }
        exec (.commitWalkVisit time) s = .next v.settle
        ∧ (s.array.linkUp = false → exec (.commitWalkEnd time) s = .next u.settle)
        ∧ (s.array.linkUp = true → s.array.control.length < 16 → exec (.commitWalkEnd time) s
          = .next (State.settle { u with array := { s.array with control := s.array.control ++ [.ma m] } }))
        ∧ (s.array.linkUp = true → 16 ≤ s.array.control.length → exec (.commitWalkEnd time) s
          = .next (State.settle { u with responder := { s.responder with waiting := some m } }))))
  ∧ (∀ (s : State) (h : Handle) (reason : Reason),
    let r := s.stream h
    let v := (s.setStream h { r with state := .faulted, pauseReason := none }).stopCadence h
    let abandoned : State := { v with tx := { s.tx with
      queue := s.tx.queue.filter (fun d => d.handle != h)
      current := if s.tx.current.any (fun d => d.handle == h) then none else s.tx.current
      sending := match s.tx.sending with
        | some (.segment d fd) => some (.segment { d with abandoned := d.abandoned || d.handle == h } fd)
        | m => m } }
    let w := ((abandoned.detachSending h).detachWindow h).setCursor h none
    w.window h = { slots := [], sending := [], cursor := none }
    ∧ s.faultStream h reason = (w.setStream h { r with
        state := .faulted, pauseReason := none, probe := none, probeExpiry := none, autoplay := false, marks := 0,
        demoted := false, reservation := 0 }).notify h reason)
  ∧ (∀ (s : State) (h : Handle) (o : Half), (s.stream h).owner = some o →
    let u := (s.setStream h { s.stream h with autoplay := false, probe := none, probeExpiry := none, withdrawn := true,
                                              state := .closing, pauseReason := none }).stopCadence h
    let w := u.detachWindow h
    let closed := (s.beginClose h true).finishClose h
    (w.window h).slots = []
    ∧ ((w.window h).sending ≠ [] → closed = w)
    ∧ ((w.window h).sending = [] →
      closed = (((w.detachWindow h).detachSending h).clearRecord h).notifyTo o h .withdrawn))
  ∧ ∀ (s : State) (h : Handle) (k : Clip) (e : Word), s.tables.active.clip k.clipId = some k → k.edition = some e →
    (s.stream h).state ≠ .closed → (s.stream h).state ≠ .faulted →
    let r := s.stream h
    let u := s.rebind h k e
    let wanted := r.effDepth
      * (if r.state = .negotiating then max (k.bound .primary) (k.bound .proxy) else k.bound r.rendition)
    let refused : Prop := r.reservation < wanted
      ∧ s.tables.active.policy.ceiling < s.reservationSum - r.reservation + wanted
    (refused → u = s.faultStream h .renditionWithdrawn)
    ∧ (¬ refused →
      let bound : Stream := { r with binding := some (k.clipId, e), reservation := wanted }
      let m := s.setStream h bound
      (r.state = .idle → u = m)
      ∧ (r.state = .negotiating → k.proxy ≠ none → u = m)
      ∧ (r.state = .negotiating → k.proxy = none →
        u = (State.stopCadence (s.setStream h { bound with
          rendition := .primary, probe := none, probeExpiry := none, state := .idle, pauseReason := none,
          reservation := r.effDepth * k.bound .primary }) h).notify h .negotiated)
      ∧ (r.windowed = true →
        let c := s.cadence h
        let rate := some (k.numerator, k.denominator)
        let n : State :=
          if r.state = .playing ∧ c.rate ≠ rate then
            match c.nextDue with
            | some due => (m.setCadence h { anchor := max due s.now, index := 0, nextDue := some (max due s.now),
                                            headWait := false, rate := rate }).recomputeDeadlines h
            | none => m.setCadence h { c with rate := rate }
          else m
        ∀ x y : RenditionRecord, s.boundRecord r = some x → k.record r.rendition = some y →
          let same : Prop := x.volume = y.volume ∧ x.frameBlocks = y.frameBlocks ∧ x.frameCount = y.frameCount
            ∧ x.extents = y.extents
          (same → u = n) ∧ (¬ same → u = ((n.detachWindow h).build h).windowChanged h)))

/-- CLEAR SHED answers with the first result that applies, and a refused clear changes no state; a clear that is made
sets the rule ARMED, takes its mark from every stream in handle order, reverses the action for each that is not CLOSING
and carries no other mark of a rule with that action, and is answered OK after the reversals, whether or not a commit
walk runs. The reversal of PAUSE resumes a stream paused with reason SHED; that of SHALLOW restores the configured depth
where the raise fits and otherwise sends an SN SHALLOWED; that of DEMOTE, where the demoted flag is set, promotes the
stream to the primary where it fits and otherwise sends an SN DEMOTED, and clears the flag. That the SN of a reversal
comes before what the change of the window leads to (a completed priming, a settled wait) is the model's
(notes/assumptions/15.md). -/
def Obligations.ClearShedAnswersTheFirstResult : Prop :=
  (∀ (s : State) (a : Arrival) (req : Word) (b : Byte), s.Taking .array a.src → a.len = 12 →
    let v := s.stamp a.time
    let answered (u : State) (e : ManageResult) : Prop :=
      exec (.clearShed a req b) s = .next (State.settle (u.answerManage a.src req 9 e .empty))
    (3 < b.toNat → answered v .badField)
    ∧ ∀ r : RuleNumber, b.toNat = r.1 →
      (s.ruleState r ≠ .tripped → answered v .noSuch)
      ∧ (s.ruleState r = .tripped → s.level (s.rule r).source = (s.rule r).level → answered v .stillMatching)
      ∧ (s.ruleState r = .tripped → s.level (s.rule r).source ≠ (s.rule r).level →
        let u := v.clearRule r
        answered u .ok ∧ u.ruleState r = .armed ∧ (∀ q : RuleNumber, q ≠ r → u.ruleState q = s.ruleState q)
        ∧ ∀ h : Handle, (u.stream h).marked r = false))
  ∧ (∀ (s : State) (r : RuleNumber),
    let act := (s.rule r).action
    s.clearRule r = handles.foldl (fun (w : State) h =>
      let x := w.stream h
      let m := w.setStream h { x with marks := x.marks &&& ~~~(1#4 <<< r.1) }
      if x.marked r = false then w
      else if x.state = .closing ∨ ∃ q : RuleNumber, q ≠ r ∧ x.marked q = true ∧ (s.rule q).action = act then m
      else m.unshed act h) (s.setRule r .armed))
  ∧ ∀ (s : State) (h : Handle),
    let x := s.stream h
    let fits (wanted : Nat) : Prop := s.reservationSum - x.reservation + wanted ≤ s.tables.active.policy.ceiling
    (¬ (x.state = .paused ∧ x.pauseReason = some .shed) ∨ s.markedWith x .pause = true → s.unshed .pause h = s)
    ∧ (x.state = .paused → x.pauseReason = some .shed → s.markedWith x .pause = false →
      let p := s.setStream h { x with state := .playing, pauseReason := none, gaps := 0 }
      let q := p.setCadence h { anchor := s.now, index := 0, nextDue := some s.now, headWait := false,
                                rate := s.boundRate x }
      s.unshed .pause h = ((q.recomputeDeadlines h).notify h .playing).decideDue h)
    ∧ ∀ k : Clip, s.boundClip x = some k → x.state ≠ .closed → x.state ≠ .faulted →
      (x.depth ≤ x.effDepth → s.unshed .shallow h = s)
      ∧ (x.effDepth < x.depth →
        let wanted := x.depth
          * (if x.state = .negotiating then max (k.bound .primary) (k.bound .proxy) else k.bound x.rendition)
        (fits wanted → s.unshed .shallow h
          = (((s.setStream h { x with effDepth := x.depth, reservation := wanted }).topUp h).notify h
            .restored).windowChanged h)
        ∧ (¬ fits wanted → s.unshed .shallow h = s.notify h .shallowed))
      ∧ (x.demoted = false → s.unshed .demote h = s)
      ∧ (x.demoted = true → x.state ≠ .negotiating →
        let wanted := x.effDepth * k.bound .primary
        let m := s.setStream h { x with rendition := .primary, reservation := wanted, demoted := false }
        let n := if x.windowed then (m.detachWindow h).build h else m
        (wanted ≤ x.reservation ∨ fits wanted → s.unshed .demote h = (n.notify h .promoted).windowChanged h)
        ∧ (x.reservation < wanted → ¬ fits wanted →
          s.unshed .demote h = (s.setStream h { x with demoted := false }).notify h .demoted))

/-- The READ verbs answer with the state as it stands; an unknown verb, and a READ with a bad field or length, is
answered BAD_FIELD. The span counts are those of the FREE spans, the FILLING ones, the VALID ones with a referrer or a
pin, the resting ones, the STALE ones, and the keys that wait; the fetch counts those of the records QUEUED, holding a
tag, and DEFERRED, with the running counts. An MA carries the generation and the walk indication as it is placed, at the
end of the array transmit queue, and is discarded while the array link is DOWN. -/
def Obligations.ManagementReadsAnswerTheState : Prop :=
  ∀ (s : State) (a : Arrival) (req : Word),
    (∀ (dst : Half) (verb : Byte) (e : ManageResult) (body : AnswerBody),
      let m : ManageAnswer := { dst := dst, req := req, verb := verb, result := e, walking := s.walking,
                                generation := s.tables.generation, body := body }
      s.answerManage dst req verb e body
        = if s.array.linkUp then { s with array := { s.array with control := s.array.control ++ [.ma m] } } else s)
    ∧ (s.Taking .array a.src → 8 ≤ a.len →
      let v := s.stamp a.time
      let answered (c : Instr) (verb : Byte) (e : ManageResult) (body : AnswerBody) : Prop :=
        exec c s = .next (State.settle (v.answerManage a.src req verb e body))
      (∀ verb : Byte, answered (.unknownManageVerb a req verb) verb .badField .empty)
      ∧ (∀ (clip edition : Word) (bank given : Byte),
        let c : Instr := .readClip a req clip bank given edition
        let ok : Prop := a.len = 20 ∧ clip ≠ 0 ∧ (bank = 1 ∧ (given = 0 ∨ given = 1) ∨ bank = 2 ∧ given = 0)
        let found : Option (FoundIn × Clip) :=
          if bank = 2 then (s.tables.staged.clip clip).map (fun x => (.staged, x))
          else if given = 1 then s.tables.lookup clip edition
          else (s.tables.active.clip clip).map (fun x => (.active, x))
        (¬ ok → answered c 10 .badField .empty)
        ∧ (ok → found = none → answered c 10 .noSuch .empty)
        ∧ (ok → ∀ (i : FoundIn) (x : Clip), found = some (i, x) → answered c 10 .ok (.clip i x)))
      ∧ (∀ b : Byte,
        (127 < b.toNat ∨ a.len ≠ 12 → answered (.readStream a req b) 11 .badField .empty)
        ∧ ∀ h : Handle, Names b h → a.len = 12 →
          ((s.stream h).live = false → answered (.readStream a req b) 11 .ok .closedStream)
          ∧ ((s.stream h).live = true → answered (.readStream a req b) 11 .ok (.stream
            { handle := h, stream := s.stream h, pending := (s.window h).countState .pending,
              ready := (s.window h).countState .ready, failed := (s.window h).countState .failed,
              sending := (s.window h).sending.length, sum := s.reservationSum,
              ceiling := s.tables.active.policy.ceiling })))
      ∧ (a.len = 8 →
        let number (p : Span → Bool) : Nat := (s.buffer.spans.filter (fun e => p e.2)).length
        let fetching (p : Fetch → Bool) : Nat := number (fun x => match x.state with
          | .filling f => p f
          | _ => false)
        answered (.readSpanCounts a req) 12 .ok (.spanCounts
          { free := (32768 - s.buffer.fresh) + s.buffer.freed.length
            filling := fetching (fun _ => true)
            referenced := number (fun x => x.state == .valid && (x.refs != [] || x.pins != 0))
            resting := s.buffer.resting.length
            stale := number (fun x => x.state == .stale)
            waiting := s.buffer.waiting.length })
        ∧ answered (.readFetchCounts a req) 13 .ok (.fetchCounts
          { queued := fetching (fun f => f.state == .queued), issued := fetching (fun f => f.tag.isSome),
            deferred := fetching (fun f => f.state == .deferred), counts := s.fetch.counts }))
      ∧ (a.len ≠ 8 → answered (.readSpanCounts a req) 12 .badField .empty
        ∧ answered (.readFetchCounts a req) 13 .badField .empty))

/-- RESET STREAMS closes every live stream at once, each with an SN RESET, keeps the tables, the rules, the probe
counter and buffer memory, and is answered OK. That the streams are closed in handle order, and that a stream's sending
set is detached before its window, is the model's (notes/assumptions/30.md). So is that the abandonment of its frames
tops up no window and ends no clip before the release (notes/assumptions/34.md). Closing a stream abandons its frames,
detaches the slots of its sending set and of its window, clears its record and sends its owner the SN RESET. -/
def Obligations.ResetStreamsClosesEveryStream : Prop :=
  (∀ (s : State) (a : Arrival) (req : Word), s.Taking .array a.src → 8 ≤ a.len →
    let v := s.stamp a.time
    let u := (List.finRange 128).foldl State.closeAtOnce v
    (a.len ≠ 8 → exec (.resetStreams a req) s
      = .next (State.settle (v.answerManage a.src req 14 .badField .empty)))
    ∧ (a.len = 8 → exec (.resetStreams a req) s = .next (State.settle (u.answerManage a.src req 14 .ok .empty)))
    ∧ (∀ h : Handle, (u.stream h).state = .closed)
    ∧ ((∀ h : Handle, (s.stream h).state = .closed → (s.stream h).reservation = 0) → u.reservationSum = 0)
    ∧ u.tables = s.tables ∧ u.rules = s.rules ∧ u.probes = s.probes ∧ u.buffer.memory = s.buffer.memory
    ∧ u.array = s.array)
  ∧ ∀ (s : State) (h : Handle),
    ((s.stream h).live = false → s.closeAtOnce h = s)
    ∧ ∀ o : Half, (s.stream h).live = true → (s.stream h).owner = some o →
      let abandoned : State := { s with tx := { s.tx with
        queue := s.tx.queue.filter (fun d => d.handle != h)
        current := if s.tx.current.any (fun d => d.handle == h) then none else s.tx.current
        sending := match s.tx.sending with
          | some (.segment d fd) => some (.segment { d with abandoned := d.abandoned || d.handle == h } fd)
          | m => m } }
      let detach (q : State) (serial : Nat) : State := q.detachSlot h serial
      let p := ((s.window h).sending.map Slot.serial).foldl detach abandoned
      let q := ((p.window h).slots.map Slot.serial).foldl detach p
      s.closeAtOnce h = (q.clearRecord h).notifyTo o h .reset

/-! ## Delivery -/

/-- A due time that has been reached decides on the head slot by its state, the credit and the late policy: it is sent,
it is gapped with a cause, or the stream waits. A due time that has not been reached changes nothing
(notes/assumptions/6.md). -/
def Obligations.DueTimesDecideOnTheHead : Prop :=
  ∀ (s : State) (time : Nat) (h : Handle),
    let r := s.stream h
    let c := s.cadence h
    let v := s.stamp time
    let due : Prop := r.state = .playing ∧ c.headWait = false ∧ ∃ d : Nat, c.nextDue = some d ∧ d ≤ max s.now time
    let ends (u : State) : Prop := exec (.dueTime time h) s = .next u.settle
    let waits := v.setCadence h { c with nextDue := none, headWait := true }
    (¬ due → ends v)
    ∧ (due → (s.window h).slots = [] → ends waits)
    ∧ (due → ∀ (x : Slot) (rest : List Slot), (s.window h).slots = x :: rest →
      (x.state = .failed → ends (v.deliverGap h x .readFailed))
      ∧ (x.state = .ready → 1 ≤ r.credit → ends (v.deliverSent h x))
      ∧ (x.state = .pending → r.late = .skip → ends (v.deliverGap h x .late))
      ∧ (x.state = .ready → r.credit = 0 → r.late = .skip → ends (v.deliverGap h x .noCredit))
      ∧ ((x.state = .pending ∨ x.state = .ready ∧ r.credit = 0) → r.late = .stall → ends waits))

/-- A sent head: the credit falls by 1, frames delivered rises and the consecutive gaps end, the position moves to the
next frame, the slot joins the sending set and its record the delivery queue, and the next due time is that of the next
index. The record takes the owner as destination, the clip's first timecode plus the frame as timecode, the slot's
rendition, and half the frame's blocks, rounded up, as its number of segments; the slot goes as it stands in the window,
and its referrer entries in the spans that it names take the sending indication. A gapped head counts a gap, a
consecutive one under SKIP, moves on the index and the next due time, places an FG with its cause ahead of any other
message of the same event, is detached, moves the position to the next frame, and tops the window up. Where window and
sending set are then empty the clip has ended; otherwise a stream under SKIP whose consecutive gaps have reached the
starve limit is paused with reason STARVED. -/
def Obligations.DeliveryEventsAdvanceTheStream : Prop :=
  ∀ (s : State) (h : Handle) (x : Slot) (rest : List Slot), (s.window h).slots = x :: rest →
    (∀ y ∈ rest, y.serial ≠ x.serial) → (s.stream h).state = .playing → (s.cadence h).headWait = false →
    let r := s.stream h
    let c := s.cadence h
    let w := s.window h
    (let u := s.deliverSent h x;
      (∀ (n d : Nat), c.rate = some (n, d) →
        u.cadence h = { c with index := c.index + 1, nextDue := some (c.anchor + (c.index + 1) * d * 1000000 / n) })
      ∧ u.stream h = { r with credit := r.credit - 1, delivered := r.delivered + 1, gaps := 0,
                              position := match rest, w.cursor with
                                | y :: _, _ => y.frame
                                | [], some f => f
                                | [], none => r.position }
      ∧ u.window h = { slots := rest, sending := w.sending ++ [{ x with state := .sending }], cursor := w.cursor }
      ∧ (∃ d : Delivery, u.tx = { s.tx with queue := s.tx.queue ++ [d] } ∧ d.handle = h ∧ d.slot = x.serial
        ∧ d.frame = x.frame ∧ d.next = 0 ∧ d.abandoned = false
        ∧ (∀ o : Half, r.owner = some o → d.dst = o)
        ∧ (∀ k : Clip, s.boundClip r = some k → d.timecode = k.firstTimecode + x.frame)
        ∧ (d.proxy = true ↔ x.rendition = .proxy)
        ∧ d.segments = ((x.pages.map PageEntry.count).sum + 1) / 2)
      ∧ (∀ time : Nat, s.deliverSent h { x with deadline := time } = u)
      ∧ (∀ (i : Nat) (y : Span), s.buffer.span i = some y →
        let refs := y.refs.map (fun e => if e.handle = h ∧ e.slot = x.serial then { e with sending := true } else e)
        ((∀ e ∈ x.pages, e.span ≠ some i) → u.buffer.span i = some y)
        ∧ ((∃ e ∈ x.pages, e.span = some i) →
          ((∀ f : Fetch, y.state ≠ .filling f) → u.buffer.span i = some { y with refs := refs })
          ∧ ∀ f : Fetch, y.state = .filling f → refs ≠ [] → u.buffer.span i
            = some { y with refs := refs, state := .filling { f with deadline := earliest refs } }))
      ∧ (∀ j : Handle, j ≠ h → u.stream j = s.stream j ∧ u.window j = s.window j ∧ u.cadence j = s.cadence j)
      ∧ u.buffer.memory = s.buffer.memory ∧ u.tables = s.tables)
    ∧ ∀ (why : GapCause) (o : Half), r.owner = some o →
      let u := s.deliverGap h x why
      (s.RoomFor 1 → s.tx.control ++ [.fg o h why x.frame] <+: u.tx.control)
      ∧ ∀ (n d : Nat), c.rate = some (n, d) →
        let gaps := if r.late = .skip then min 255 (r.gaps + 1) else r.gaps
        let due := c.anchor + (c.index + 1) * d * 1000000 / n
        let p := ((s.setCadence h { c with index := c.index + 1, nextDue := some due }).setStream h
          { r with gapped := r.gapped + 1, gaps := gaps }).placeControl (some h) (.fg o h why x.frame)
        let q := p.detachSlot h x.serial
        let position := match rest, w.cursor with
          | y :: _, _ => y.frame
          | [], some f => f
          | [], none => r.position
        let v := (q.setStream h { q.stream h with position := position }).topUp h
        let z := v.stream h
        let frames := v.frameCount z
        let bare : Prop := (v.window h).slots = [] ∧ (v.window h).sending = []
        let starved : Prop := r.late = .skip ∧ s.tables.active.policy.starveLimit ≤ gaps
        (q.window h).slots.map Slot.frame = rest.map Slot.frame ∧ (q.window h).cursor = w.cursor
        ∧ { z with noticeLost := r.noticeLost } = { r with gapped := r.gapped + 1, gaps := gaps, position := position }
        ∧ (bare → u = ((((v.setStream h { z with
            position := (sequenceFrame frames z.position z.stride
              (framesRemaining frames z.position z.stride - 1)).getD z.position
            state := .idle, pauseReason := none }).stopCadence h).detachWindow h).detachSending h).notify h .ended)
        ∧ (¬ bare → starved → u = (State.stopCadence (v.setStream h { z with
            state := .paused, pauseReason := some .starved }) h).notify h .starved)
        ∧ (¬ bare → ¬ starved → u = v)

/-! ## Transmission -/

/-- The end of a transmission frees its transmitter. The last segment of a frame that has not been abandoned ends the
frame's transmission: the slot is detached, and the stream's state says what follows. A BD of a local answer that has
been sent is followed by the next, or ends the answer. A frame's end and a BD's end act only where that is the message
in transmission (notes/assumptions/6.md). A windowed stream tops up: a PLAYING or PAUSED one left without any slot has
come to the end of its clip, at the last frame of its sequence, and the wait of another PLAYING one may be settled by
the head that top-up has placed. The next BD carries the next one or two blocks, and the last one the FINAL flag, the
read's total and check word, and the STALE flag where its span is STALE. The end of an answer takes its pin off the
span, which rests or becomes FREE when nothing else uses it. -/
def Obligations.TransmissionEndsMoveTheWorkOn : Prop :=
  (∀ (s : State) (h : Handle),
    let r := s.stream h
    let n := s.frameCount r
    s.endOfClip h = ((((s.setStream h { r with
      position := (sequenceFrame n r.position r.stride (framesRemaining n r.position r.stride - 1)).getD r.position
      state := .idle, pauseReason := none }).stopCadence h).detachWindow h).detachSending h).notify h .ended)
  ∧ (∀ (s : State) (time : Nat),
    let v := s.stamp time
    let free : State := { v with tx := { s.tx with sending := none } }
    let floor (u : State) : Prop := exec (.floorTransmissionEnd time) s = .next u.settle
    let frame (u : State) : Prop := exec (.frameTransmissionEnd time) s = .next u.settle
    let block (u : State) : Prop := exec (.localAnswerBdSent time) s = .next u.settle
    exec (.arrayTransmissionEnd time) s = .next (State.settle { v with array := { s.array with sending := none } })
    ∧ (s.tx.sending = none → floor v ∧ frame v ∧ block v)
    ∧ (∀ m : FloorControl, s.tx.sending = some (.control m) → floor free ∧ frame v ∧ block v)
    ∧ (∀ f : Frame, s.tx.sending = some (.forwarded f) → floor free ∧ frame v ∧ block v)
    ∧ (∀ (d : Delivery) (fd : FrameSegment), s.tx.sending = some (.segment d fd) →
      block v
      ∧ (fd.last = false ∨ d.abandoned = true → floor free ∧ frame v)
      ∧ (fd.last = true → d.abandoned = false →
        let u : State := { v with tx := { s.tx with sending := none, current := none } }
        let w := u.detachSlot d.handle d.slot
        let st := (s.stream d.handle).state
        floor (u.transmissionEnded d.handle d.slot) ∧ frame (u.transmissionEnded d.handle d.slot)
        ∧ (st = .closing → u.transmissionEnded d.handle d.slot
          = if (w.window d.handle).sending = [] then w.completeClose d.handle else w)
        ∧ (st = .priming → u.transmissionEnded d.handle d.slot = (w.topUp d.handle).reportPriming d.handle)
        ∧ (st = .primed → u.transmissionEnded d.handle d.slot = w.topUp d.handle)
        ∧ (st = .playing ∨ st = .paused → ((w.topUp d.handle).window d.handle).slots = [] →
          ((w.topUp d.handle).window d.handle).sending = [] →
          u.transmissionEnded d.handle d.slot = (w.topUp d.handle).endOfClip d.handle)
        ∧ (st ≠ .closing → st ≠ .priming → st ≠ .primed → st ≠ .playing → st ≠ .paused →
          u.transmissionEnded d.handle d.slot = w)
        ∧ (let t := w.topUp d.handle
          (t.window d.handle).slots ≠ [] ∨ (t.window d.handle).sending ≠ [] →
          (st = .paused → u.transmissionEnded d.handle d.slot = t)
          ∧ (st = .playing → (s.cadence d.handle).headWait = false → u.transmissionEnded d.handle d.slot = t)
          ∧ (st = .playing → (s.cadence d.handle).headWait = true →
            (t.outcome d.handle = .wait → u.transmissionEnded d.handle d.slot = t)
            ∧ (∀ z : Slot, t.outcome d.handle = .send z →
              u.transmissionEnded d.handle d.slot = (t.takeAnchor d.handle v.now).deliverSent d.handle z)
            ∧ ∀ (z : Slot) (why : GapCause), t.outcome d.handle = .gap z why →
              u.transmissionEnded d.handle d.slot = (t.takeAnchor d.handle v.now).deliverGap d.handle z why))))
    ∧ (∀ (serial : Nat) (bd : AnswerData) (b : LocalAnswer), s.tx.sending = some (.answer serial bd) →
      s.localAnswer serial = some b →
      frame v
      ∧ (bd.final = true → floor (free.endAnswer b) ∧ block (free.endAnswer b))
      ∧ (bd.final = false → floor (free.handBlock b) ∧ block (free.handBlock b))))
  ∧ (∀ (s : State) (b : LocalAnswer),
    let n := min 2 (b.count - b.handed)
    let final : Prop := b.handed + n = b.count
    let bytes (first blocks : Nat) : List Byte := (List.range blocks).flatMap (fun j =>
      Memory.readBytes s.buffer.memory ((b.span * 256 + (first + j)) * 4096) 4096)
    ∃ bd : AnswerData, bd.dst = b.station ∧ bd.src = b.target ∧ bd.tag = b.tag ∧ bd.offset = b.offset + b.handed
      ∧ bd.count = n ∧ bd.data = bytes (b.offset + b.handed) n ∧ (bd.final = true ↔ final)
      ∧ (bd.stale = true ↔ final ∧ ∃ x : Span, s.buffer.span b.span = some x ∧ x.state = .stale)
      ∧ (final → bd.total = b.count ∧ bd.check = extendCheck 0 (bytes b.offset b.count))
      ∧ (¬ final → bd.total = 0 ∧ bd.check = 0)
      ∧ s.handBlock b = { s with
        buffer := { s.buffer with answers := s.buffer.answers.map (fun c =>
          if c.serial = b.serial then { b with handed := b.handed + n, ready := some bd } else c) }
        tx := { s.tx with turns := if .answer b.serial ∈ s.tx.turns then s.tx.turns
                                   else s.tx.turns ++ [.answer b.serial] } })
  ∧ ∀ (s : State) (b : LocalAnswer) (x : Span), s.buffer.span b.span = some x →
    let left := s.buffer.answers.filter (fun c => c.serial != b.serial)
    let p := State.putSpan { s with buffer := { s.buffer with answers := left } } b.span { x with pins := x.pins - 1 }
    let used : Prop := x.refs ≠ [] ∨ 1 < x.pins
    (used → x.state = .valid ∨ x.state = .stale → s.endAnswer b = p)
    ∧ (¬ used → x.state = .valid → s.endAnswer b
      = State.serve { p with buffer := { p.buffer with resting := s.buffer.resting ++ [b.span] } })
    ∧ (¬ used → x.state = .stale → s.endAnswer b = State.serve { s with buffer := { s.buffer with
      answers := left, spans := Keyed.drop s.buffer.spans b.span, freed := s.buffer.freed ++ [b.span] } })

/-- A link event changes what its rule gives. The link partner's flow control holds or releases a transmitter. The loss
of the array link empties the queues toward the array, ends a quiesce, which is a transition of the source QUIESCED
where the port leaves QUIESCED, marks a lost MN, and returns every ISSUED record: each gives up its tag, TAGS takes one
sample where there was one, and each is queued again with the attempt base and the enqueue sequence it had, or, where
its span has no referrers, ends with its span FREE (by rising page index, notes/assumptions/13.md, 17.md); the loss of
the floor link empties what waits to go out to the floor, ends every local answer, oldest first, its pin released, and
then closes every stream at once, in handle order (the orders are the model's, notes/assumptions/30.md). Links come up
only where the straps are usable: a station number that is neither 0 nor 65,535, and an Ethertype of 0x0600 or above.
Messages that wait on a lost link are lost, the partner's hold ends with its link, and an event that repeats the link's
state changes nothing: these are the model's (notes/assumptions/9.md, 25.md, 26.md). -/
def Obligations.LinksGoDownAndComeUp : Prop :=
  (∀ (s : State) (time : Nat),
    let v := s.stamp time
    (∀ holding : Bool,
      (s.array.linkUp = true → exec (.linkPartnerFlowControl time .array holding) s
        = .next (State.settle { v with array := { s.array with partnerHolds := holding } }))
      ∧ (s.floor.linkUp = true → exec (.linkPartnerFlowControl time .floor holding) s
        = .next (State.settle { v with floor := { s.floor with partnerHolds := holding } }))
      ∧ ∀ p : Port, s.linkUp p = false → exec (.linkPartnerFlowControl time p holding) s = .next v.settle)
    ∧ (s.strapsUsable = true
      ↔ s.straps.station ≠ 0 ∧ s.straps.station ≠ 0xFFFF ∧ 0x0600 ≤ s.straps.etherType.toNat)
    ∧ (s.noticeOut = true ↔ (∃ (n : Notice) (o : Bool), .mn n o ∈ s.array.control)
      ∨ ∃ (n : Notice) (o : Bool), s.array.sending = some (.control (.mn n o)))
    ∧ (s.strapsUsable = true →
      exec (.arrayLinkUp time) s = .next (State.settle { v with array := { s.array with linkUp := true } })
      ∧ exec (.floorLinkUp time) s = .next (State.settle { v with floor := { s.floor with linkUp := true } }))
    ∧ (s.strapsUsable = false → exec (.arrayLinkUp time) s = .next v.settle
      ∧ exec (.floorLinkUp time) s = .next v.settle)
    ∧ (s.array.linkUp = false → exec (.arrayLinkDown time) s = .next v.settle)
    ∧ (s.floor.linkUp = false → exec (.floorLinkDown time) s = .next v.settle)
    ∧ (s.array.linkUp = true →
      let u := v.loseArray
      let cut : State := { v with
        responder := { s.responder with overflow := s.responder.overflow || s.noticeOut, waiting := none }
        array := { s.array with linkUp := false, quiesce := .opened, control := [], sending := none,
                                grantWaiting := none, partnerHolds := false, onLink := [] }
        floor := { s.floor with toArray := [] } }
      exec (.arrayLinkDown time) s = .next u.settle
      ∧ (s.array.quiesce = .quiesced → u = (cut.transition .quiesced).returnIssued)
      ∧ (s.array.quiesce ≠ .quiesced → u = cut.returnIssued)
      ∧ u.array = { s.array with linkUp := false, quiesce := .opened, control := [], sending := none,
                                 grantWaiting := none, partnerHolds := false, onLink := [] }
      ∧ u.floor = { s.floor with toArray := [] } ∧ u.responder.waiting = none
      ∧ (s.noticeOut = true → u.responder.overflow = true)
      ∧ u.tables = s.tables ∧ u.buffer.memory = s.buffer.memory)
    ∧ (s.floor.linkUp = true →
      let u := v.loseFloor
      let down : State := { v with
        floor := { s.floor with linkUp := false, partnerHolds := false, onLink := [] }
        array := { s.array with toFloor := [] }
        tx := { s.tx with queue := [], current := none, control := [], turns := [], sending := none } }
      exec (.floorLinkDown time) s = .next u.settle
      ∧ u = (List.finRange 128).foldl State.closeAtOnce (s.buffer.answers.foldl State.endAnswer down)
      ∧ u.floor = { s.floor with linkUp := false, partnerHolds := false, onLink := [] }
      ∧ u.array = { s.array with toFloor := [] }
      ∧ u.tx = { s.tx with queue := [], current := none, control := [], turns := [], sending := none }
      ∧ u.buffer.answers = [] ∧ (∀ h : Handle, (u.stream h).state = .closed)
      ∧ u.tables = s.tables ∧ u.buffer.memory = s.buffer.memory))
  ∧ (∀ s : State,
    let l := s.buffer.issued
    let u := l.foldl State.release s
    (∀ i : Nat, i ∈ l ↔ ∃ (x : Span) (f : Fetch) (tag : TagIndex), (i, x) ∈ s.buffer.spans ∧ x.state = .filling f
      ∧ f.tag = some tag)
    ∧ (l = [] → s.returnIssued = s)
    ∧ (l ≠ [] → s.returnIssued = l.foldl (fun q i => q.requeue false i) u.sampleTags))
  ∧ ∀ (s : State) (i : Nat) (x : Span) (f : Fetch), s.buffer.span i = some x → x.state = .filling f →
    (∀ tag : TagIndex, f.tag = some tag → s.release i = State.putSpan { s with fetch := { s.fetch with
        generations := s.fetch.generations.set tag.1 (s.fetch.generations[tag] + 1) tag.2
        continuations := s.fetch.continuations.filter (fun j => j != i) } } i
      { x with state := .filling { f with tag := none, received := 0, issueTime := none, expiry := none,
                                          waiting := false } })
    ∧ (x.refs ≠ [] → s.requeue false i = s.putSpan i { x with state := .filling { f with state := .queued } })
    ∧ (x.refs = [] → s.requeue false i = State.serve { s with buffer := { s.buffer with
        spans := Keyed.drop s.buffer.spans i, freed := s.buffer.freed ++ [i] } })

/-- What waits joins the array transmit queue when it has a place: a QG of the port first, then a COMMIT's OK, then the
front notice, which takes the overflow mark, while the link is UP and no MN stands in the queue. Where several wait,
they take the free places in that order, and one that finds none waits on. The keys of the allocation queue are served
oldest first, one for each span that can be taken: the key's waiting slots become the span's referrers, a fetch is
queued under the earliest of their deadlines, and each slot comes to name the span for the key. That each of these
commands has no effect where its condition does not hold, and that it does what the end of other events also does, is
the model's (notes/assumptions/6.md, 11.md). -/
def Obligations.WaitingMessagesAndKeysMoveOn : Prop :=
  ∀ (s : State) (time : Nat),
    let v := s.stamp time
    let room : Prop := s.array.control.length < 16
    let queued (m : ArrayControl) : List ArrayControl := s.array.control ++ [m]
    let grant : List ArrayControl := s.array.grantWaiting.toList.map (fun dst => .qg dst)
    let answer : List ArrayControl := s.responder.waiting.toList.map (fun m => .ma m)
    let notice : List ArrayControl := match s.responder.notices with
      | [] => []
      | n :: _ => if s.array.linkUp = true ∧ ∀ m ∈ s.array.control, m.isNotice = false
        then [.mn n s.responder.overflow] else []
    let joined (l : List ArrayControl) : List ArrayControl :=
      s.array.control ++ l.take (16 - s.array.control.length)
    let places : Nat := 16 - s.array.control.length
    let first (l : List ArrayControl) : State :=
      { v with array := { s.array with control := joined l,
                                       grantWaiting := if 0 < places then none else s.array.grantWaiting } }
    let second (l : List ArrayControl) : State := { first l with
      responder := { s.responder with waiting := if grant.length < places then none else s.responder.waiting } }
    let third (l : List ArrayControl) : State :=
      if notice ≠ [] ∧ (grant ++ answer).length < places then { second l with
        responder := { (second l).responder with notices := s.responder.notices.tail, overflow := false } }
      else second l
    (exec (.waitingQgJoins time) s = .next (first grant).settle
      ∧ exec (.waitingCommitAnswerJoins time) s = .next (second (grant ++ answer)).settle
      ∧ exec (.mnHandover time) s = .next (third (grant ++ answer ++ notice)).settle
      ∧ v.joinGrant = first grant ∧ v.joinGrant.joinAnswer = second (grant ++ answer)
      ∧ v.joins = third (grant ++ answer ++ notice)
      ∧ ∀ m : ArrayControl, m.isNotice = true ↔ ∃ (n : Notice) (o : Bool), m = .mn n o)
    ∧ (∀ dst : Half, s.array.grantWaiting = some dst → room → exec (.waitingQgJoins time) s = .next (State.settle
      { v with array := { s.array with control := queued (.qg dst), grantWaiting := none } }))
    ∧ (s.array.grantWaiting = none ∨ ¬ room → exec (.waitingQgJoins time) s = .next v.settle)
    ∧ (s.array.grantWaiting = none →
      (∀ m : ManageAnswer, s.responder.waiting = some m → room →
        exec (.waitingCommitAnswerJoins time) s = .next (State.settle
          { v with array := { s.array with control := queued (.ma m) }
                   responder := { s.responder with waiting := none } }))
      ∧ (s.responder.waiting = none →
        exec (.waitingCommitAnswerJoins time) s = .next v.settle
        ∧ (∀ (n : Notice) (t : List Notice), s.responder.notices = n :: t → s.array.linkUp = true → room →
          (∀ m ∈ s.array.control, m.isNotice = false) →
          exec (.mnHandover time) s = .next (State.settle
            { v with array := { s.array with control := queued (.mn n s.responder.overflow) }
                     responder := { s.responder with notices := t, overflow := false } }))
        ∧ (s.responder.notices = [] ∨ s.array.linkUp = false ∨ (∃ m ∈ s.array.control, m.isNotice = true) →
          exec (.mnHandover time) s = .next v.settle)))
    ∧ (¬ room → exec (.waitingCommitAnswerJoins time) s = .next v.settle ∧ exec (.mnHandover time) s = .next v.settle)
    ∧ exec (.allocationQueueServing time) s = .next v.serve.settle
    ∧ (s.buffer.waiting = [] → v.serve = v)
    ∧ (s.buffer.take = none → v.serve = v)
    ∧ (∀ (w : WaitingKey) (rest : List WaitingKey) (i : Nat) (b : SpanBuffer), s.buffer.waiting = w :: rest →
      s.buffer.take = some (i, b) →
      let x : Span :=
        { key := w.key, state := .filling (Fetch.create (earliest w.slots) s.fetch.enqueue), refs := w.slots,
          pins := 0, refill := false, checkFailed := false }
      let waits (h : Handle) (z : Slot) : Prop := ∃ r ∈ w.slots, r.handle = h ∧ r.slot = z.serial
      let named (h : Handle) (z : Slot) : Slot :=
        if waits h z then { z with pages := z.pages.map (fun e =>
          if e.key = w.key then { e with span := some i } else e) }
        else z
      ∃ q : State, v.serve = q.serve ∧ q.buffer = { b.put i x with waiting := rest }
        ∧ q.fetch = { s.fetch with enqueue := s.fetch.enqueue + 1 }
        ∧ q = { v with buffer := q.buffer, fetch := q.fetch, windows := q.windows }
        ∧ ∀ h : Handle, q.window h = { slots := (s.window h).slots.map (named h)
                                       sending := (s.window h).sending.map (named h), cursor := (s.window h).cursor })
    ∧ ∀ (w : WaitingKey) (i : Nat) (b : SpanBuffer), s.buffer.waiting = [w] → s.buffer.take = some (i, b) →
      v.serve.buffer.waiting = [] ∧ v.serve.fetch.enqueue = s.fetch.enqueue + 1
      ∧ v.serve.buffer.span i = some
        { key := w.key, state := .filling (Fetch.create (earliest w.slots) s.fetch.enqueue), refs := w.slots, pins := 0,
          refill := false, checkFailed := false }

/-- A free transmitter sends the front control message of its port before anything else, and a transmitter that is not
free starts nothing. With no control message, the array port alternates between reads of the part's own and those of
stations, a class with nothing to send never holding back the other; while it is not OPEN it sends no read of the part's
own. A turn for an own read sends the front continuation, and otherwise, with the issue hold ended, a tag free and a
record queued, issues the record of earliest deadline, then of lowest enqueue sequence, under the lowest free tag; issue
is stated with no rule ARMED. The floor transmitter alternates between a segment of frame data and a message of block
data: frame data is the next segment of the frame in transmission, and only with none in transmission the first segment
of the front of the delivery queue; block data is of the source at the front of the turn list, which then leaves it, a
forwarding queue that still holds a message rejoining at its end. -/
def Obligations.TransmittersChooseInOrder : Prop :=
  ∀ s : State,
    (s.arrayFree = false → s.arrayChoose = s)
    ∧ (s.floorFree = false → s.floorChoose = s)
    ∧ (∀ (m : ArrayControl) (t : List ArrayControl), s.arrayFree = true → s.array.control = m :: t →
      s.arrayChoose = { s with array := { s.array with control := t, sending := some (.control m) } })
    ∧ (∀ (m : FloorControl) (t : List FloorControl), s.floorFree = true → s.tx.control = m :: t →
      s.floorChoose = { s with tx := { s.tx with control := t, sending := some (.control m) } })
    ∧ (s.arrayFree = true → s.array.control = [] → s.array.quiesce ≠ .opened →
      (s.floor.toArray = [] → s.arrayChoose = s)
      ∧ ∀ (f : Frame) (t : List Frame), s.floor.toArray = f :: t →
        s.arrayChoose = { s with floor := { s.floor with toArray := t }
                                 array := { s.array with sending := some (.forwarded f), turn := .own } })
    ∧ (∀ d : Delivery, s.floorFree = true → s.tx.control = [] → s.tx.current = some d →
      (d.next < d.segments → s.tx.turn = .frame → ∃ fd : FrameSegment, fd.index = d.next ∧ fd.handle = d.handle
        ∧ fd.frame = d.frame ∧ fd.count = d.segments ∧ (fd.last = true ↔ d.next + 1 = d.segments)
        ∧ s.floorChoose = { s with tx := { s.tx with
            current := some { d with next := d.next + 1 }, turn := .block,
            sending := some (.segment { d with next := d.next + 1 } fd) } })
      ∧ (d.segments ≤ d.next → s.tx.turns = [] → s.floorChoose = s))
    ∧ (let sends (w : State) (m : ArrayMessage) (turn : ArrayTurn) : State :=
        { w with array := { w.array with sending := some m, turn := turn } }
      let passes (f : Frame) (rest : List Frame) : State :=
        sends { s with floor := { s.floor with toArray := rest } } (.forwarded f) .own
      s.arrayFree = true → s.array.control = [] → s.array.quiesce = .opened →
        (∀ (f : Frame) (rest : List Frame), s.floor.toArray = f :: rest → s.array.turn = .forwarded →
          s.arrayChoose = passes f rest)
        ∧ (s.array.turn = .own ∨ s.floor.toArray = [] → ∀ (br : OwnRead) (w : State), s.fetchTurn = some (br, w) →
          s.arrayChoose = sends w (.read br) .forwarded)
        ∧ (s.fetchTurn = none → s.floor.toArray = [] → s.arrayChoose = s)
        ∧ (s.fetchTurn = none → ∀ (f : Frame) (rest : List Frame), s.floor.toArray = f :: rest →
          s.arrayChoose = passes f rest))
    ∧ (let n := s.fetch.counts
      let expiry := s.now + s.tables.active.policy.readTimeout * 1000
      let read (x : Span) (f : Fetch) (tag : TagIndex) : OwnRead :=
        { tag := (s.fetch.generations[tag]).toNat * 512 + tag.1, volume := x.key.volume, count := 256 - f.base,
          start := 256 * x.key.page + f.base }
      let queued (e : Nat × Span) (g : Fetch) : Prop := e ∈ s.buffer.spans ∧ e.2.state = .filling g ∧ g.state = .queued
      (∀ (i : Nat) (rest : List Nat) (x : Span) (f : Fetch) (tag : TagIndex), s.fetch.continuations = i :: rest →
        s.buffer.span i = some x → x.state = .filling f → f.tag = some tag →
        s.fetchTurn = some (read x f tag, State.putSpan { s with fetch := { s.fetch with
            continuations := s.fetch.continuations.filter (fun j => j != i)
            counts := { n with continuations := n.continuations + 1 } } } i
          { x with state := .filling { f with waiting := false, check := 0, issueTime := some s.now,
                                              expiry := some expiry } }))
      ∧ (s.fetch.continuations = [] →
        (s.fetch.holdUntil ≠ none ∨ (∀ tag : TagIndex, s.buffer.holder tag ≠ none) ∨ (∀ e g, ¬ queued e g) →
          s.fetchTurn = none)
        ∧ (s.fetch.holdUntil = none → (∃ e g, queued e g) → s.NoneArmed → ∀ tag : TagIndex,
          s.buffer.holder tag = none → (∀ j : TagIndex, j < tag → s.buffer.holder j ≠ none) →
          ∃ (i : Nat) (f : Fetch), (∃ y : Span, queued (i, y) f)
            ∧ (∀ e g, queued e g → f.deadline < g.deadline
              ∨ f.deadline = g.deadline ∧ f.sequence.toNat ≤ g.sequence.toNat)
            ∧ ∀ x : Span, s.buffer.span i = some x →
              let w := s.putSpan i { x with state := .filling { f with
                state := .issued, tag := some tag, received := 0, check := 0, issueTime := some s.now,
                expiry := some expiry, firstIssue := some (f.firstIssue.getD s.now) } }
              s.fetchTurn = some (read x f tag, { w with
                pressure := { s.pressure with
                  tags := s.pressure.tags.sample s.tables.active.shed.tags w.issuedCount }
                fetch := { s.fetch with counts := { n with issues := n.issues + 1 } } }))))
    ∧ (let frame : Option (Delivery × List Delivery) := match s.tx.current, s.tx.queue with
        | some d, q => if d.next < d.segments then some (d, q) else none
        | none, d :: q => some (d, q)
        | none, [] => none
      let block : Option (FloorMessage × State) := match s.tx.turns with
        | [] => none
        | .forwarding :: rest => match s.array.toFloor with
          | [] => none
          | f :: t => some (.forwarded f, { s with
            array := { s.array with toFloor := t }
            tx := { s.tx with turns := if t = [] then rest else rest ++ [.forwarding] } })
        | .answer serial :: rest => match s.buffer.answers.find? (fun a => a.serial == serial) with
          | none => none
          | some a => match a.ready with
            | none => none
            | some bd =>
              let sent (b : LocalAnswer) : LocalAnswer := if b.serial = serial then { a with ready := none } else b
              some (.answer serial bd, { s with
                buffer := { s.buffer with answers := s.buffer.answers.map sent }
                tx := { s.tx with turns := rest } })
      let sendsFrame (d : Delivery) (queue : List Delivery) (turn : FloorTurn) : State := { s with tx := { s.tx with
        queue := queue, current := some { d with next := d.next + 1 }, turn := turn,
        sending := some (.segment { d with next := d.next + 1 } (s.segment d)) } }
      let sendsBlock (m : FloorMessage) (w : State) (turn : FloorTurn) : State :=
        { w with tx := { w.tx with sending := some m, turn := turn } }
      s.floorFree = true → s.tx.control = [] →
        (∀ (d : Delivery) (q : List Delivery), frame = some (d, q) →
          (s.tx.turn = .frame → s.floorChoose = sendsFrame d q .block)
          ∧ (s.tx.turn = .block → block = none → s.floorChoose = sendsFrame d q .block))
        ∧ (∀ (m : FloorMessage) (w : State), block = some (m, w) →
          (s.tx.turn = .block → s.floorChoose = sendsBlock m w .frame)
          ∧ (s.tx.turn = .frame → frame = none → s.floorChoose = sendsBlock m w .frame))
        ∧ (frame = none → block = none → s.floorChoose = s))
    ∧ ∀ (d : Delivery) (x : Slot), (s.window d.handle).slot d.slot = some x →
      let last := d.next + 1 == d.segments
      let places := x.pages.flatMap (fun e => match e.span with
        | none => []
        | some i => (List.range e.count).map (fun j => (i * 256 + (e.first + j)) * 4096))
      s.segment d = { dst := d.dst, handle := d.handle, proxy := d.proxy, last := last, stale := last && x.stale,
                      checkFailed := last && x.checkFailed, index := d.next, count := d.segments, frame := d.frame,
                      timecode := d.timecode,
                      payload := ((places.drop (2 * d.next)).take 2).flatMap
                        (fun a => Memory.readBytes s.buffer.memory a 4096) }

/-- The end of every event lets what waits join the array transmit queue and each free transmitter choose: the joins (a
QG, a COMMIT's OK, a notice), the choice of the array port, the joins again, since a choice may free a place, and the
choice of the floor transmitter. That these come at the end of the event and in this order is the model's
(notes/assumptions/7.md). So a free transmitter with a control message starts it in the event itself. The end of an
event moves messages and issues reads, and changes no time, table, byte of memory, link or waiting command; with no rule
ARMED it changes no stream record, window, cadence or rule. -/
def Obligations.SettlingMovesMessagesOnly : Prop :=
  ∀ s : State,
    let t := s.settle
    t = s.joins.arrayChoose.joins.floorChoose ∧ s.joins = s.joinGrant.joinAnswer.handOver
    ∧ (∀ (m : ArrayControl) (rest : List ArrayControl), s.arrayFree = true → s.array.control = m :: rest →
      t.array.sending = some (.control m))
    ∧ (∀ (m : FloorControl) (rest : List FloorControl), s.floorFree = true → s.tx.control = m :: rest →
      t.tx.sending = some (.control m) ∧ rest <+: t.tx.control ∧ (s.NoneArmed → t.tx.control = rest))
    ∧ (s.arrayFree = true ↔ s.array.linkUp = true ∧ s.array.partnerHolds = false ∧ s.array.sending = none)
    ∧ (s.floorFree = true ↔ s.floor.linkUp = true ∧ s.floor.partnerHolds = false ∧ s.tx.sending = none)
    ∧ t.now = s.now ∧ t.pins = s.pins ∧ t.straps = s.straps ∧ t.tables = s.tables
    ∧ t.buffer.memory = s.buffer.memory ∧ t.fetch.holdUntil = s.fetch.holdUntil ∧ t.pending = s.pending
    ∧ t.array.linkUp = s.array.linkUp ∧ t.floor.linkUp = s.floor.linkUp ∧ t.array.quiesce = s.array.quiesce
    ∧ (s.NoneArmed → t.streams = s.streams ∧ t.windows = s.windows ∧ t.cadences = s.cadences ∧ t.rules = s.rules
      ∧ t.probes = s.probes)

/-! ## Pressure and shed rules -/

/-- A comparator compares each sample with the threshold of the other level: a sample at or beyond it raises the run,
which changes the level when it reaches the debounce and then becomes 0; any other sample sets the run to 0. -/
def Obligations.ComparatorsFollowTheirThresholds : Prop :=
  ∀ (x : Settings) (n v : Nat),
    (v < x.high → Comparator.sample { level := .low, run := n } x v = { level := .low, run := 0 })
    ∧ (x.high ≤ v → n + 1 < x.debounce →
      Comparator.sample { level := .low, run := n } x v = { level := .low, run := n + 1 })
    ∧ (x.high ≤ v → x.debounce ≤ n + 1 →
      Comparator.sample { level := .low, run := n } x v = { level := .high, run := 0 })
    ∧ (x.low < v → Comparator.sample { level := .high, run := n } x v = { level := .high, run := 0 })
    ∧ (v ≤ x.low → n + 1 < x.debounce →
      Comparator.sample { level := .high, run := n } x v = { level := .high, run := n + 1 })
    ∧ (v ≤ x.low → x.debounce ≤ n + 1 →
      Comparator.sample { level := .high, run := n } x v = { level := .low, run := 0 })

/-- A rule that trips becomes TRIPPED, hands over its notice, and marks every stream it reaches: the live streams,
FAULTED ones excepted, whose owner's active entry has a shed class of the rule's mask. No other stream's record changes,
and no other rule's state. A transition trips no rule that is not ARMED, of that source, and at its match level. The
streams reached take the action in handle order. DEMOTE ends a negotiation on the proxy and moves another stream on the
primary of a clip with a proxy to it, where the reservation falls or its raise fits; SHALLOW halves the effective depth
and detaches tail slots down to it; PAUSE pauses a PLAYING or PRIMING stream. Each sends its SN; in every other case the
mark is all. The SN comes before what the change of the window leads to (notes/assumptions/15.md). At a transition of a
source the rules of that source are taken in rule-number order, and each that is ARMED and whose match level the source
has reached trips; a sample that moves a comparator's level, and an entry into QUIESCED or an exit from it, is a
transition. Where one completion moves several comparators, the order of their transitions is left open
(notes/assumptions/8.md). -/
def Obligations.TrippedRulesMarkTheStreamsTheyReach : Prop :=
  (∀ (s : State) (r : RuleNumber),
    let u := s.trip r
    let note : Notice := .shedTripped r (s.rule r).source
    u.ruleState r = .tripped ∧ (∀ q : RuleNumber, q ≠ r → u.ruleState q = s.ruleState q)
    ∧ (s.responder.notices.length < 32 → u.responder.notices = s.responder.notices ++ [note])
    ∧ (32 ≤ s.responder.notices.length → u.responder.notices = s.responder.notices ∧ u.responder.overflow = true)
    ∧ (∀ h : Handle,
      let x := s.stream h
      let reached : Prop := x.state ≠ .closed ∧ x.state ≠ .faulted ∧ ∃ (o : Half) (e : StationEntry),
        x.owner = some o ∧ s.tables.active.station o = some e ∧ (s.rule r).classes.getLsbD e.shedClass = true
      (reached → (u.stream h).marks = x.marks ||| (1#4 <<< r.1)) ∧ (¬ reached → u.stream h = x))
    ∧ ∀ src : Source,
      (∀ q : RuleNumber, s.ruleState q = .armed → (s.rule q).source = src → s.level src ≠ (s.rule q).level) →
      s.transition src = s)
  ∧ (∀ (s : State) (src : Source),
    s.transition src = ([0, 1, 2, 3] : List RuleNumber).foldl (fun (w : State) r =>
      if (s.rule r).source = src ∧ w.ruleState r = .armed ∧ s.level src = (s.rule r).level then w.trip r else w) s
    ∧ (∀ r : RuleNumber, (s.rule r).source = src → s.ruleState r = .armed → s.level src = (s.rule r).level →
      (s.transition src).ruleState r = .tripped)
    ∧ ∀ r : RuleNumber, (s.rule r).source ≠ src ∨ s.ruleState r ≠ .armed ∨ s.level src ≠ (s.rule r).level →
      (s.transition src).ruleState r = s.ruleState r)
  ∧ (∀ s : State,
    let p := s.pressure
    let shed := s.tables.active.shed
    let issued := (s.buffer.spans.filter (fun e => match e.2.state with
      | .filling f => f.tag.isSome
      | _ => false)).length
    let tags := p.tags.sample shed.tags issued
    let one : State := { s with pressure := { p with tags := tags } }
    (tags.level = p.tags.level → s.sampleTags = one)
    ∧ (tags.level ≠ p.tags.level → s.sampleTags = one.transition .tags)
    ∧ (∀ service : Nat,
      let q : PressureMonitor := { lat1 := p.lat1.sample shed.lat1 service, lat2 := p.lat2.sample shed.lat2 service,
                                   tags := tags }
      ∃ (l : List Source) (n : Nat), l.Nodup
        ∧ (.lat1 ∈ l ↔ q.lat1.level ≠ p.lat1.level) ∧ (.lat2 ∈ l ↔ q.lat2.level ≠ p.lat2.level)
        ∧ (.tags ∈ l ↔ q.tags.level ≠ p.tags.level) ∧ .quiesced ∉ l
        ∧ s.sampleCompletion service = l.foldl State.transition { s with pressure := q, choices := n })
    ∧ ∀ q : Quiesce,
      let w : State := { s with array := { s.array with quiesce := q } }
      ((q = .quiesced ↔ s.array.quiesce = .quiesced) → s.setQuiesce q = w)
      ∧ (¬ (q = .quiesced ↔ s.array.quiesce = .quiesced) → s.setQuiesce q = w.transition .quiesced))
  ∧ (∀ (s : State) (r : RuleNumber),
    s.trip r = (handles.filter (fun h => s.reaches r (s.stream h))).foldl (fun (w : State) h =>
        State.shedAct (w.setStream h { w.stream h with marks := (w.stream h).marks ||| (1#4 <<< r.1) })
          (s.rule r).action h)
      ((s.setRule r .tripped).pushNotice (.shedTripped r (s.rule r).source))
    ∧ ∀ n : Notice,
      let held := s.responder.notices
      (held.length < 32 → s.pushNotice n = { s with responder := { s.responder with notices := held ++ [n] } })
      ∧ (32 ≤ held.length → s.pushNotice n = { s with responder := { s.responder with overflow := true } }))
  ∧ (∀ (s : State) (h : Handle),
    let x := s.stream h
    let paused (y : Stream) : State := (State.stopCadence
      (s.setStream h { y with state := .paused, pauseReason := some .shed }) h).notify h .pausedShed
    (x.state = .playing → s.shedAct .pause h = paused x)
    ∧ (x.state = .priming → s.shedAct .pause h = paused { x with autoplay := false })
    ∧ (x.state ≠ .playing → x.state ≠ .priming → s.shedAct .pause h = s))
  ∧ (∀ (s : State) (h : Handle) (k : Clip), s.boundClip (s.stream h) = some k → (s.stream h).state ≠ .closed →
    (s.stream h).state ≠ .faulted →
    let x := s.stream h
    let half := max 1 (x.depth / 2)
    let pages := if x.state = .negotiating then max (k.bound .primary) (k.bound .proxy) else k.bound x.rendition
    let m := s.setStream h { x with effDepth := half, reservation := half * pages }
    (x.state = .closing ∨ x.effDepth = half → s.shedAct .shallow h = s)
    ∧ (x.state ≠ .closing → x.effDepth ≠ half →
      s.shedAct .shallow h = ((m.reduceWindow h).notify h .shallowed).reportPriming h)
    ∧ (x.state = .closing ∨ x.rendition = .proxy ∨ k.proxy = none → s.shedAct .demote h = s)
    ∧ ∀ q : RenditionRecord, x.state ≠ .closing → x.rendition = .primary → k.proxy = some q →
      let wanted := x.effDepth * q.pageBound
      let lighter : Stream := { x with rendition := .proxy, reservation := wanted, demoted := true }
      (x.state = .negotiating → s.shedAct .demote h = (State.stopCadence (s.setStream h { lighter with
        probe := none, probeExpiry := none, state := .idle, pauseReason := none }) h).notify h .demoted)
      ∧ (x.state ≠ .negotiating →
        let refused : Prop := x.reservation < wanted
          ∧ s.tables.active.policy.ceiling < s.reservationSum - x.reservation + wanted
        let n := s.setStream h lighter
        (refused → s.shedAct .demote h = s)
        ∧ (¬ refused → s.shedAct .demote h
          = ((if x.windowed then (n.detachWindow h).build h else n).notify h .demoted).windowChanged h)))
  ∧ ∀ (s : State) (h : Handle),
    let w := s.window h
    let depth := (s.stream h).effDepth
    (w.slots.length + w.sending.length ≤ depth ∨ w.slots = [] → s.reduceWindow h = s)
    ∧ ∀ (kept : List Slot) (y : Slot) (tail : List Slot), w.slots = kept ++ y :: tail →
      kept.length = depth - w.sending.length →
      s.reduceWindow h = (s.detachSlots h ((y :: tail).reverse.map Slot.serial)).setCursor h (some y.frame)
end

