-- ==== Sys2Proof/Laws/State.lean ====
section
/-! SUPPORT. What each update of the state leaves unchanged, field by field, and what it reads back. -/

namespace Sys2Proof.Machine

open Sys2Proof

variable (s : State)

@[simp] theorem State.setStream_now (h : Handle) (r : Stream) : (s.setStream h r).now = s.now := rfl
@[simp] theorem State.setStream_pins (h : Handle) (r : Stream) : (s.setStream h r).pins = s.pins := rfl
@[simp] theorem State.setStream_straps (h : Handle) (r : Stream) : (s.setStream h r).straps = s.straps := rfl
@[simp] theorem State.setStream_tables (h : Handle) (r : Stream) : (s.setStream h r).tables = s.tables := rfl
@[simp] theorem State.setStream_probes (h : Handle) (r : Stream) : (s.setStream h r).probes = s.probes := rfl
@[simp] theorem State.setStream_windows (h : Handle) (r : Stream) : (s.setStream h r).windows = s.windows := rfl
@[simp] theorem State.setStream_nextSlot (h : Handle) (r : Stream) : (s.setStream h r).nextSlot = s.nextSlot := rfl
@[simp] theorem State.setStream_buffer (h : Handle) (r : Stream) : (s.setStream h r).buffer = s.buffer := rfl
@[simp] theorem State.setStream_fetch (h : Handle) (r : Stream) : (s.setStream h r).fetch = s.fetch := rfl
@[simp] theorem State.setStream_array (h : Handle) (r : Stream) : (s.setStream h r).array = s.array := rfl
@[simp] theorem State.setStream_floor (h : Handle) (r : Stream) : (s.setStream h r).floor = s.floor := rfl
@[simp] theorem State.setStream_cadences (h : Handle) (r : Stream) : (s.setStream h r).cadences = s.cadences := rfl
@[simp] theorem State.setStream_tx (h : Handle) (r : Stream) : (s.setStream h r).tx = s.tx := rfl
@[simp] theorem State.setStream_pressure (h : Handle) (r : Stream) : (s.setStream h r).pressure = s.pressure := rfl
@[simp] theorem State.setStream_rules (h : Handle) (r : Stream) : (s.setStream h r).rules = s.rules := rfl
@[simp] theorem State.setStream_responder (h : Handle) (r : Stream) : (s.setStream h r).responder = s.responder := rfl
@[simp] theorem State.setStream_choices (h : Handle) (r : Stream) : (s.setStream h r).choices = s.choices := rfl
@[simp] theorem State.setStream_pending (h : Handle) (r : Stream) : (s.setStream h r).pending = s.pending := rfl

@[simp] theorem State.setWindow_now (h : Handle) (w : Window) : (s.setWindow h w).now = s.now := rfl
@[simp] theorem State.setWindow_pins (h : Handle) (w : Window) : (s.setWindow h w).pins = s.pins := rfl
@[simp] theorem State.setWindow_straps (h : Handle) (w : Window) : (s.setWindow h w).straps = s.straps := rfl
@[simp] theorem State.setWindow_tables (h : Handle) (w : Window) : (s.setWindow h w).tables = s.tables := rfl
@[simp] theorem State.setWindow_streams (h : Handle) (w : Window) : (s.setWindow h w).streams = s.streams := rfl
@[simp] theorem State.setWindow_probes (h : Handle) (w : Window) : (s.setWindow h w).probes = s.probes := rfl
@[simp] theorem State.setWindow_nextSlot (h : Handle) (w : Window) : (s.setWindow h w).nextSlot = s.nextSlot := rfl
@[simp] theorem State.setWindow_buffer (h : Handle) (w : Window) : (s.setWindow h w).buffer = s.buffer := rfl
@[simp] theorem State.setWindow_fetch (h : Handle) (w : Window) : (s.setWindow h w).fetch = s.fetch := rfl
@[simp] theorem State.setWindow_array (h : Handle) (w : Window) : (s.setWindow h w).array = s.array := rfl
@[simp] theorem State.setWindow_floor (h : Handle) (w : Window) : (s.setWindow h w).floor = s.floor := rfl
@[simp] theorem State.setWindow_cadences (h : Handle) (w : Window) : (s.setWindow h w).cadences = s.cadences := rfl
@[simp] theorem State.setWindow_tx (h : Handle) (w : Window) : (s.setWindow h w).tx = s.tx := rfl
@[simp] theorem State.setWindow_pressure (h : Handle) (w : Window) : (s.setWindow h w).pressure = s.pressure := rfl
@[simp] theorem State.setWindow_rules (h : Handle) (w : Window) : (s.setWindow h w).rules = s.rules := rfl
@[simp] theorem State.setWindow_responder (h : Handle) (w : Window) : (s.setWindow h w).responder = s.responder := rfl
@[simp] theorem State.setWindow_choices (h : Handle) (w : Window) : (s.setWindow h w).choices = s.choices := rfl
@[simp] theorem State.setWindow_pending (h : Handle) (w : Window) : (s.setWindow h w).pending = s.pending := rfl

@[simp] theorem State.setCadence_now (h : Handle) (c : Cadence) : (s.setCadence h c).now = s.now := rfl
@[simp] theorem State.setCadence_pins (h : Handle) (c : Cadence) : (s.setCadence h c).pins = s.pins := rfl
@[simp] theorem State.setCadence_straps (h : Handle) (c : Cadence) : (s.setCadence h c).straps = s.straps := rfl
@[simp] theorem State.setCadence_tables (h : Handle) (c : Cadence) : (s.setCadence h c).tables = s.tables := rfl
@[simp] theorem State.setCadence_streams (h : Handle) (c : Cadence) : (s.setCadence h c).streams = s.streams := rfl
@[simp] theorem State.setCadence_probes (h : Handle) (c : Cadence) : (s.setCadence h c).probes = s.probes := rfl
@[simp] theorem State.setCadence_windows (h : Handle) (c : Cadence) : (s.setCadence h c).windows = s.windows := rfl
@[simp] theorem State.setCadence_nextSlot (h : Handle) (c : Cadence) : (s.setCadence h c).nextSlot = s.nextSlot := rfl
@[simp] theorem State.setCadence_buffer (h : Handle) (c : Cadence) : (s.setCadence h c).buffer = s.buffer := rfl
@[simp] theorem State.setCadence_fetch (h : Handle) (c : Cadence) : (s.setCadence h c).fetch = s.fetch := rfl
@[simp] theorem State.setCadence_array (h : Handle) (c : Cadence) : (s.setCadence h c).array = s.array := rfl
@[simp] theorem State.setCadence_floor (h : Handle) (c : Cadence) : (s.setCadence h c).floor = s.floor := rfl
@[simp] theorem State.setCadence_tx (h : Handle) (c : Cadence) : (s.setCadence h c).tx = s.tx := rfl
@[simp] theorem State.setCadence_pressure (h : Handle) (c : Cadence) : (s.setCadence h c).pressure = s.pressure := rfl
@[simp] theorem State.setCadence_rules (h : Handle) (c : Cadence) : (s.setCadence h c).rules = s.rules := rfl
@[simp] theorem State.setCadence_responder (h : Handle) (c : Cadence) : (s.setCadence h c).responder = s.responder := rfl
@[simp] theorem State.setCadence_choices (h : Handle) (c : Cadence) : (s.setCadence h c).choices = s.choices := rfl
@[simp] theorem State.setCadence_pending (h : Handle) (c : Cadence) : (s.setCadence h c).pending = s.pending := rfl

@[simp] theorem State.setRule_now (r : RuleNumber) (x : RuleState) : (s.setRule r x).now = s.now := rfl
@[simp] theorem State.setRule_pins (r : RuleNumber) (x : RuleState) : (s.setRule r x).pins = s.pins := rfl
@[simp] theorem State.setRule_straps (r : RuleNumber) (x : RuleState) : (s.setRule r x).straps = s.straps := rfl
@[simp] theorem State.setRule_tables (r : RuleNumber) (x : RuleState) : (s.setRule r x).tables = s.tables := rfl
@[simp] theorem State.setRule_streams (r : RuleNumber) (x : RuleState) : (s.setRule r x).streams = s.streams := rfl
@[simp] theorem State.setRule_probes (r : RuleNumber) (x : RuleState) : (s.setRule r x).probes = s.probes := rfl
@[simp] theorem State.setRule_windows (r : RuleNumber) (x : RuleState) : (s.setRule r x).windows = s.windows := rfl
@[simp] theorem State.setRule_nextSlot (r : RuleNumber) (x : RuleState) : (s.setRule r x).nextSlot = s.nextSlot := rfl
@[simp] theorem State.setRule_buffer (r : RuleNumber) (x : RuleState) : (s.setRule r x).buffer = s.buffer := rfl
@[simp] theorem State.setRule_fetch (r : RuleNumber) (x : RuleState) : (s.setRule r x).fetch = s.fetch := rfl
@[simp] theorem State.setRule_array (r : RuleNumber) (x : RuleState) : (s.setRule r x).array = s.array := rfl
@[simp] theorem State.setRule_floor (r : RuleNumber) (x : RuleState) : (s.setRule r x).floor = s.floor := rfl
@[simp] theorem State.setRule_cadences (r : RuleNumber) (x : RuleState) : (s.setRule r x).cadences = s.cadences := rfl
@[simp] theorem State.setRule_tx (r : RuleNumber) (x : RuleState) : (s.setRule r x).tx = s.tx := rfl
@[simp] theorem State.setRule_pressure (r : RuleNumber) (x : RuleState) : (s.setRule r x).pressure = s.pressure := rfl
@[simp] theorem State.setRule_responder (r : RuleNumber) (x : RuleState) : (s.setRule r x).responder = s.responder := rfl
@[simp] theorem State.setRule_choices (r : RuleNumber) (x : RuleState) : (s.setRule r x).choices = s.choices := rfl
@[simp] theorem State.setRule_pending (r : RuleNumber) (x : RuleState) : (s.setRule r x).pending = s.pending := rfl

@[simp] theorem State.putSpan_now (i : Nat) (x : Span) : (s.putSpan i x).now = s.now := rfl
@[simp] theorem State.putSpan_pins (i : Nat) (x : Span) : (s.putSpan i x).pins = s.pins := rfl
@[simp] theorem State.putSpan_straps (i : Nat) (x : Span) : (s.putSpan i x).straps = s.straps := rfl
@[simp] theorem State.putSpan_tables (i : Nat) (x : Span) : (s.putSpan i x).tables = s.tables := rfl
@[simp] theorem State.putSpan_streams (i : Nat) (x : Span) : (s.putSpan i x).streams = s.streams := rfl
@[simp] theorem State.putSpan_probes (i : Nat) (x : Span) : (s.putSpan i x).probes = s.probes := rfl
@[simp] theorem State.putSpan_windows (i : Nat) (x : Span) : (s.putSpan i x).windows = s.windows := rfl
@[simp] theorem State.putSpan_nextSlot (i : Nat) (x : Span) : (s.putSpan i x).nextSlot = s.nextSlot := rfl
@[simp] theorem State.putSpan_fetch (i : Nat) (x : Span) : (s.putSpan i x).fetch = s.fetch := rfl
@[simp] theorem State.putSpan_array (i : Nat) (x : Span) : (s.putSpan i x).array = s.array := rfl
@[simp] theorem State.putSpan_floor (i : Nat) (x : Span) : (s.putSpan i x).floor = s.floor := rfl
@[simp] theorem State.putSpan_cadences (i : Nat) (x : Span) : (s.putSpan i x).cadences = s.cadences := rfl
@[simp] theorem State.putSpan_tx (i : Nat) (x : Span) : (s.putSpan i x).tx = s.tx := rfl
@[simp] theorem State.putSpan_pressure (i : Nat) (x : Span) : (s.putSpan i x).pressure = s.pressure := rfl
@[simp] theorem State.putSpan_rules (i : Nat) (x : Span) : (s.putSpan i x).rules = s.rules := rfl
@[simp] theorem State.putSpan_responder (i : Nat) (x : Span) : (s.putSpan i x).responder = s.responder := rfl
@[simp] theorem State.putSpan_choices (i : Nat) (x : Span) : (s.putSpan i x).choices = s.choices := rfl
@[simp] theorem State.putSpan_pending (i : Nat) (x : Span) : (s.putSpan i x).pending = s.pending := rfl

@[simp] theorem State.pushControl_now (m : FloorControl) : (s.pushControl m).now = s.now := rfl
@[simp] theorem State.pushControl_pins (m : FloorControl) : (s.pushControl m).pins = s.pins := rfl
@[simp] theorem State.pushControl_straps (m : FloorControl) : (s.pushControl m).straps = s.straps := rfl
@[simp] theorem State.pushControl_tables (m : FloorControl) : (s.pushControl m).tables = s.tables := rfl
@[simp] theorem State.pushControl_streams (m : FloorControl) : (s.pushControl m).streams = s.streams := rfl
@[simp] theorem State.pushControl_probes (m : FloorControl) : (s.pushControl m).probes = s.probes := rfl
@[simp] theorem State.pushControl_windows (m : FloorControl) : (s.pushControl m).windows = s.windows := rfl
@[simp] theorem State.pushControl_nextSlot (m : FloorControl) : (s.pushControl m).nextSlot = s.nextSlot := rfl
@[simp] theorem State.pushControl_buffer (m : FloorControl) : (s.pushControl m).buffer = s.buffer := rfl
@[simp] theorem State.pushControl_fetch (m : FloorControl) : (s.pushControl m).fetch = s.fetch := rfl
@[simp] theorem State.pushControl_array (m : FloorControl) : (s.pushControl m).array = s.array := rfl
@[simp] theorem State.pushControl_floor (m : FloorControl) : (s.pushControl m).floor = s.floor := rfl
@[simp] theorem State.pushControl_cadences (m : FloorControl) : (s.pushControl m).cadences = s.cadences := rfl
@[simp] theorem State.pushControl_pressure (m : FloorControl) : (s.pushControl m).pressure = s.pressure := rfl
@[simp] theorem State.pushControl_rules (m : FloorControl) : (s.pushControl m).rules = s.rules := rfl
@[simp] theorem State.pushControl_responder (m : FloorControl) : (s.pushControl m).responder = s.responder := rfl
@[simp] theorem State.pushControl_choices (m : FloorControl) : (s.pushControl m).choices = s.choices := rfl
@[simp] theorem State.pushControl_pending (m : FloorControl) : (s.pushControl m).pending = s.pending := rfl

@[simp] theorem State.pushArray_now (m : ArrayControl) : (s.pushArray m).now = s.now := rfl
@[simp] theorem State.pushArray_pins (m : ArrayControl) : (s.pushArray m).pins = s.pins := rfl
@[simp] theorem State.pushArray_straps (m : ArrayControl) : (s.pushArray m).straps = s.straps := rfl
@[simp] theorem State.pushArray_tables (m : ArrayControl) : (s.pushArray m).tables = s.tables := rfl
@[simp] theorem State.pushArray_streams (m : ArrayControl) : (s.pushArray m).streams = s.streams := rfl
@[simp] theorem State.pushArray_probes (m : ArrayControl) : (s.pushArray m).probes = s.probes := rfl
@[simp] theorem State.pushArray_windows (m : ArrayControl) : (s.pushArray m).windows = s.windows := rfl
@[simp] theorem State.pushArray_nextSlot (m : ArrayControl) : (s.pushArray m).nextSlot = s.nextSlot := rfl
@[simp] theorem State.pushArray_buffer (m : ArrayControl) : (s.pushArray m).buffer = s.buffer := rfl
@[simp] theorem State.pushArray_fetch (m : ArrayControl) : (s.pushArray m).fetch = s.fetch := rfl
@[simp] theorem State.pushArray_floor (m : ArrayControl) : (s.pushArray m).floor = s.floor := rfl
@[simp] theorem State.pushArray_cadences (m : ArrayControl) : (s.pushArray m).cadences = s.cadences := rfl
@[simp] theorem State.pushArray_tx (m : ArrayControl) : (s.pushArray m).tx = s.tx := rfl
@[simp] theorem State.pushArray_pressure (m : ArrayControl) : (s.pushArray m).pressure = s.pressure := rfl
@[simp] theorem State.pushArray_rules (m : ArrayControl) : (s.pushArray m).rules = s.rules := rfl
@[simp] theorem State.pushArray_responder (m : ArrayControl) : (s.pushArray m).responder = s.responder := rfl
@[simp] theorem State.pushArray_choices (m : ArrayControl) : (s.pushArray m).choices = s.choices := rfl
@[simp] theorem State.pushArray_pending (m : ArrayControl) : (s.pushArray m).pending = s.pending := rfl

@[simp] theorem State.stamp_pins (t : Nat) : (s.stamp t).pins = s.pins := rfl
@[simp] theorem State.stamp_straps (t : Nat) : (s.stamp t).straps = s.straps := rfl
@[simp] theorem State.stamp_tables (t : Nat) : (s.stamp t).tables = s.tables := rfl
@[simp] theorem State.stamp_streams (t : Nat) : (s.stamp t).streams = s.streams := rfl
@[simp] theorem State.stamp_probes (t : Nat) : (s.stamp t).probes = s.probes := rfl
@[simp] theorem State.stamp_windows (t : Nat) : (s.stamp t).windows = s.windows := rfl
@[simp] theorem State.stamp_nextSlot (t : Nat) : (s.stamp t).nextSlot = s.nextSlot := rfl
@[simp] theorem State.stamp_buffer (t : Nat) : (s.stamp t).buffer = s.buffer := rfl
@[simp] theorem State.stamp_fetch (t : Nat) : (s.stamp t).fetch = s.fetch := rfl
@[simp] theorem State.stamp_array (t : Nat) : (s.stamp t).array = s.array := rfl
@[simp] theorem State.stamp_floor (t : Nat) : (s.stamp t).floor = s.floor := rfl
@[simp] theorem State.stamp_cadences (t : Nat) : (s.stamp t).cadences = s.cadences := rfl
@[simp] theorem State.stamp_tx (t : Nat) : (s.stamp t).tx = s.tx := rfl
@[simp] theorem State.stamp_pressure (t : Nat) : (s.stamp t).pressure = s.pressure := rfl
@[simp] theorem State.stamp_rules (t : Nat) : (s.stamp t).rules = s.rules := rfl
@[simp] theorem State.stamp_responder (t : Nat) : (s.stamp t).responder = s.responder := rfl
@[simp] theorem State.stamp_choices (t : Nat) : (s.stamp t).choices = s.choices := rfl
@[simp] theorem State.stamp_pending (t : Nat) : (s.stamp t).pending = s.pending := rfl

@[simp] theorem State.nextSequence_now : (s.nextSequence).now = s.now := rfl
@[simp] theorem State.nextSequence_pins : (s.nextSequence).pins = s.pins := rfl
@[simp] theorem State.nextSequence_straps : (s.nextSequence).straps = s.straps := rfl
@[simp] theorem State.nextSequence_tables : (s.nextSequence).tables = s.tables := rfl
@[simp] theorem State.nextSequence_streams : (s.nextSequence).streams = s.streams := rfl
@[simp] theorem State.nextSequence_probes : (s.nextSequence).probes = s.probes := rfl
@[simp] theorem State.nextSequence_windows : (s.nextSequence).windows = s.windows := rfl
@[simp] theorem State.nextSequence_nextSlot : (s.nextSequence).nextSlot = s.nextSlot := rfl
@[simp] theorem State.nextSequence_buffer : (s.nextSequence).buffer = s.buffer := rfl
@[simp] theorem State.nextSequence_array : (s.nextSequence).array = s.array := rfl
@[simp] theorem State.nextSequence_floor : (s.nextSequence).floor = s.floor := rfl
@[simp] theorem State.nextSequence_cadences : (s.nextSequence).cadences = s.cadences := rfl
@[simp] theorem State.nextSequence_tx : (s.nextSequence).tx = s.tx := rfl
@[simp] theorem State.nextSequence_pressure : (s.nextSequence).pressure = s.pressure := rfl
@[simp] theorem State.nextSequence_rules : (s.nextSequence).rules = s.rules := rfl
@[simp] theorem State.nextSequence_responder : (s.nextSequence).responder = s.responder := rfl
@[simp] theorem State.nextSequence_choices : (s.nextSequence).choices = s.choices := rfl
@[simp] theorem State.nextSequence_pending : (s.nextSequence).pending = s.pending := rfl

@[simp] theorem State.count_now (f : FetchCounts → FetchCounts) : (s.count f).now = s.now := rfl
@[simp] theorem State.count_pins (f : FetchCounts → FetchCounts) : (s.count f).pins = s.pins := rfl
@[simp] theorem State.count_straps (f : FetchCounts → FetchCounts) : (s.count f).straps = s.straps := rfl
@[simp] theorem State.count_tables (f : FetchCounts → FetchCounts) : (s.count f).tables = s.tables := rfl
@[simp] theorem State.count_streams (f : FetchCounts → FetchCounts) : (s.count f).streams = s.streams := rfl
@[simp] theorem State.count_probes (f : FetchCounts → FetchCounts) : (s.count f).probes = s.probes := rfl
@[simp] theorem State.count_windows (f : FetchCounts → FetchCounts) : (s.count f).windows = s.windows := rfl
@[simp] theorem State.count_nextSlot (f : FetchCounts → FetchCounts) : (s.count f).nextSlot = s.nextSlot := rfl
@[simp] theorem State.count_buffer (f : FetchCounts → FetchCounts) : (s.count f).buffer = s.buffer := rfl
@[simp] theorem State.count_array (f : FetchCounts → FetchCounts) : (s.count f).array = s.array := rfl
@[simp] theorem State.count_floor (f : FetchCounts → FetchCounts) : (s.count f).floor = s.floor := rfl
@[simp] theorem State.count_cadences (f : FetchCounts → FetchCounts) : (s.count f).cadences = s.cadences := rfl
@[simp] theorem State.count_tx (f : FetchCounts → FetchCounts) : (s.count f).tx = s.tx := rfl
@[simp] theorem State.count_pressure (f : FetchCounts → FetchCounts) : (s.count f).pressure = s.pressure := rfl
@[simp] theorem State.count_rules (f : FetchCounts → FetchCounts) : (s.count f).rules = s.rules := rfl
@[simp] theorem State.count_responder (f : FetchCounts → FetchCounts) : (s.count f).responder = s.responder := rfl
@[simp] theorem State.count_choices (f : FetchCounts → FetchCounts) : (s.count f).choices = s.choices := rfl
@[simp] theorem State.count_pending (f : FetchCounts → FetchCounts) : (s.count f).pending = s.pending := rfl

@[simp] theorem State.store_now (a : Nat) (bs : List Byte) : (s.store a bs).now = s.now := rfl
@[simp] theorem State.store_pins (a : Nat) (bs : List Byte) : (s.store a bs).pins = s.pins := rfl
@[simp] theorem State.store_straps (a : Nat) (bs : List Byte) : (s.store a bs).straps = s.straps := rfl
@[simp] theorem State.store_tables (a : Nat) (bs : List Byte) : (s.store a bs).tables = s.tables := rfl
@[simp] theorem State.store_streams (a : Nat) (bs : List Byte) : (s.store a bs).streams = s.streams := rfl
@[simp] theorem State.store_probes (a : Nat) (bs : List Byte) : (s.store a bs).probes = s.probes := rfl
@[simp] theorem State.store_windows (a : Nat) (bs : List Byte) : (s.store a bs).windows = s.windows := rfl
@[simp] theorem State.store_nextSlot (a : Nat) (bs : List Byte) : (s.store a bs).nextSlot = s.nextSlot := rfl
@[simp] theorem State.store_fetch (a : Nat) (bs : List Byte) : (s.store a bs).fetch = s.fetch := rfl
@[simp] theorem State.store_array (a : Nat) (bs : List Byte) : (s.store a bs).array = s.array := rfl
@[simp] theorem State.store_floor (a : Nat) (bs : List Byte) : (s.store a bs).floor = s.floor := rfl
@[simp] theorem State.store_cadences (a : Nat) (bs : List Byte) : (s.store a bs).cadences = s.cadences := rfl
@[simp] theorem State.store_tx (a : Nat) (bs : List Byte) : (s.store a bs).tx = s.tx := rfl
@[simp] theorem State.store_pressure (a : Nat) (bs : List Byte) : (s.store a bs).pressure = s.pressure := rfl
@[simp] theorem State.store_rules (a : Nat) (bs : List Byte) : (s.store a bs).rules = s.rules := rfl
@[simp] theorem State.store_responder (a : Nat) (bs : List Byte) : (s.store a bs).responder = s.responder := rfl
@[simp] theorem State.store_choices (a : Nat) (bs : List Byte) : (s.store a bs).choices = s.choices := rfl
@[simp] theorem State.store_pending (a : Nat) (bs : List Byte) : (s.store a bs).pending = s.pending := rfl

@[simp] theorem State.setWalk_now (w : Walk) : (s.setWalk w).now = s.now := rfl
@[simp] theorem State.setWalk_pins (w : Walk) : (s.setWalk w).pins = s.pins := rfl
@[simp] theorem State.setWalk_straps (w : Walk) : (s.setWalk w).straps = s.straps := rfl
@[simp] theorem State.setWalk_streams (w : Walk) : (s.setWalk w).streams = s.streams := rfl
@[simp] theorem State.setWalk_probes (w : Walk) : (s.setWalk w).probes = s.probes := rfl
@[simp] theorem State.setWalk_windows (w : Walk) : (s.setWalk w).windows = s.windows := rfl
@[simp] theorem State.setWalk_nextSlot (w : Walk) : (s.setWalk w).nextSlot = s.nextSlot := rfl
@[simp] theorem State.setWalk_buffer (w : Walk) : (s.setWalk w).buffer = s.buffer := rfl
@[simp] theorem State.setWalk_fetch (w : Walk) : (s.setWalk w).fetch = s.fetch := rfl
@[simp] theorem State.setWalk_array (w : Walk) : (s.setWalk w).array = s.array := rfl
@[simp] theorem State.setWalk_floor (w : Walk) : (s.setWalk w).floor = s.floor := rfl
@[simp] theorem State.setWalk_cadences (w : Walk) : (s.setWalk w).cadences = s.cadences := rfl
@[simp] theorem State.setWalk_tx (w : Walk) : (s.setWalk w).tx = s.tx := rfl
@[simp] theorem State.setWalk_pressure (w : Walk) : (s.setWalk w).pressure = s.pressure := rfl
@[simp] theorem State.setWalk_rules (w : Walk) : (s.setWalk w).rules = s.rules := rfl
@[simp] theorem State.setWalk_responder (w : Walk) : (s.setWalk w).responder = s.responder := rfl
@[simp] theorem State.setWalk_choices (w : Walk) : (s.setWalk w).choices = s.choices := rfl
@[simp] theorem State.setWalk_pending (w : Walk) : (s.setWalk w).pending = s.pending := rfl

/-! ## Reading back -/

@[simp] theorem State.stream_setStream (h : Handle) (r : Stream) : (s.setStream h r).stream h = r := by
  simp [State.stream, State.setStream]

theorem State.stream_setStream_of_ne {h k : Handle} (e : h ≠ k) (r : Stream) :
    (s.setStream h r).stream k = s.stream k := by
  have e' : (h : Nat) ≠ k := fun x => e (Fin.ext x)
  simp [State.stream, State.setStream, e']

@[simp] theorem State.window_setWindow (h : Handle) (w : Window) : (s.setWindow h w).window h = w := by
  simp [State.window, State.setWindow]

theorem State.window_setWindow_of_ne {h k : Handle} (e : h ≠ k) (w : Window) :
    (s.setWindow h w).window k = s.window k := by
  have e' : (h : Nat) ≠ k := fun x => e (Fin.ext x)
  simp [State.window, State.setWindow, e']

@[simp] theorem State.cadence_setCadence (h : Handle) (c : Cadence) : (s.setCadence h c).cadence h = c := by
  simp [State.cadence, State.setCadence]

theorem State.cadence_setCadence_of_ne {h k : Handle} (e : h ≠ k) (c : Cadence) :
    (s.setCadence h c).cadence k = s.cadence k := by
  have e' : (h : Nat) ≠ k := fun x => e (Fin.ext x)
  simp [State.cadence, State.setCadence, e']

@[simp] theorem State.stream_setWindow (h k : Handle) (w : Window) : (s.setWindow h w).stream k = s.stream k := rfl
@[simp] theorem State.stream_setCadence (h k : Handle) (c : Cadence) : (s.setCadence h c).stream k = s.stream k := rfl
@[simp] theorem State.window_setStream (h k : Handle) (r : Stream) : (s.setStream h r).window k = s.window k := rfl
@[simp] theorem State.window_setCadence (h k : Handle) (c : Cadence) : (s.setCadence h c).window k = s.window k := rfl
@[simp] theorem State.cadence_setStream (h k : Handle) (r : Stream) : (s.setStream h r).cadence k = s.cadence k := rfl
@[simp] theorem State.cadence_setWindow (h k : Handle) (w : Window) : (s.setWindow h w).cadence k = s.cadence k := rfl
@[simp] theorem State.stream_putSpan (i : Nat) (x : Span) (k : Handle) : (s.putSpan i x).stream k = s.stream k := rfl
@[simp] theorem State.stream_pushControl (m : FloorControl) (k : Handle) :
    (s.pushControl m).stream k = s.stream k := rfl
@[simp] theorem State.stream_pushArray (m : ArrayControl) (k : Handle) : (s.pushArray m).stream k = s.stream k := rfl
@[simp] theorem State.stream_stamp (t : Nat) (k : Handle) : (s.stamp t).stream k = s.stream k := rfl
@[simp] theorem State.pushControl_control (m : FloorControl) :
    (s.pushControl m).tx.control = s.tx.control ++ [m] := rfl
@[simp] theorem State.pushArray_control (m : ArrayControl) :
    (s.pushArray m).array.control = s.array.control ++ [m] := rfl
@[simp] theorem State.putSpan_memory (i : Nat) (x : Span) :
    (s.putSpan i x).buffer.memory = s.buffer.memory := rfl
@[simp] theorem State.store_memory (a : Nat) (bs : List Byte) :
    (s.store a bs).buffer.memory = Memory.write s.buffer.memory a bs := rfl

/-! ## Writing twice -/

@[simp] theorem State.setStream_setStream (h : Handle) (r q : Stream) :
    (s.setStream h r).setStream h q = s.setStream h q := by
  simp [State.setStream]

@[simp] theorem State.setWindow_setWindow (h : Handle) (w x : Window) :
    (s.setWindow h w).setWindow h x = s.setWindow h x := by
  simp [State.setWindow]

@[simp] theorem State.setCadence_setCadence (h : Handle) (c d : Cadence) :
    (s.setCadence h c).setCadence h d = s.setCadence h d := by
  simp [State.setCadence]

/-- Records and cadences are separate fields. -/
theorem State.setCadence_setStream (h k : Handle) (c : Cadence) (r : Stream) :
    (s.setCadence h c).setStream k r = (s.setStream k r).setCadence h c := rfl

/-- Writing back the record that stands there changes nothing. -/
@[simp] theorem State.setStream_self (h : Handle) : s.setStream h (s.stream h) = s := by
  simp [State.setStream, State.stream]

@[simp] theorem State.cadence_stamp (t : Nat) (k : Handle) : (s.stamp t).cadence k = s.cadence k := rfl
@[simp] theorem State.window_stamp (t : Nat) (k : Handle) : (s.stamp t).window k = s.window k := rfl
@[simp] theorem State.now_stamp (t : Nat) : (s.stamp t).now = max s.now t := rfl

end Sys2Proof.Machine
end

