-- ==== Sys2Proof/Laws/Memory.lean ====
section
/-! SUPPORT. Buffer memory: every write keeps the canonical form, and reading after a write gives the bytes written and
leaves every other byte. -/

namespace Sys2Proof.Machine

open Sys2Proof

theorem Memory.cells_range (bs : List Byte) (a : Nat) :
    ∀ c ∈ Memory.cells a bs, a ≤ c.1 ∧ c.1 < a + bs.length := by
  induction bs generalizing a with
  | nil => simp [Memory.cells]
  | cons b t ih =>
    intro c hc
    simp only [Memory.cells] at hc
    split at hc
    · have := ih (a + 1) c hc
      simp only [List.length_cons]; omega
    · rcases List.mem_cons.1 hc with rfl | h
      · simp
      · have := ih (a + 1) c h
        simp only [List.length_cons]; omega

theorem Memory.cells_value (bs : List Byte) (a : Nat) : ∀ c ∈ Memory.cells a bs, c.2 ≠ Config.unwrittenByte := by
  induction bs generalizing a with
  | nil => simp [Memory.cells]
  | cons b t ih =>
    intro c hc
    simp only [Memory.cells] at hc
    split at hc
    · exact ih (a + 1) c hc
    · rename_i hb
      rcases List.mem_cons.1 hc with rfl | h
      · exact hb
      · exact ih (a + 1) c h

theorem Memory.cells_pairwise (bs : List Byte) (a : Nat) :
    (Memory.cells a bs).Pairwise (fun x y => x.1 < y.1) := by
  induction bs generalizing a with
  | nil => simp [Memory.cells]
  | cons b t ih =>
    simp only [Memory.cells]
    split
    · exact ih (a + 1)
    · refine List.pairwise_cons.2 ⟨fun c hc => ?_, ih (a + 1)⟩
      have := Memory.cells_range t (a + 1) c hc
      simp only; omega

/-- Memory in canonical form is so after every write. -/
theorem Memory.write_wf {m : List Host.Cell} (hm : Memory.wf m) (a : Nat) (bs : List Byte) :
    Memory.wf (Memory.write m a bs) := by
  obtain ⟨hp, hv⟩ := hm
  refine ⟨?_, ?_⟩
  · unfold Memory.write
    refine List.pairwise_append.2 ⟨List.pairwise_append.2 ⟨hp.filter _, Memory.cells_pairwise bs a, ?_⟩,
      hp.filter _, ?_⟩
    · intro x hx y hy
      have := (List.mem_filter.1 hx).2
      have := Memory.cells_range bs a y hy
      simp at *; omega
    · intro x hx y hy
      have h2 := (List.mem_filter.1 hy).2
      rcases List.mem_append.1 hx with h | h
      · have := (List.mem_filter.1 h).2
        simp at *; omega
      · have := Memory.cells_range bs a x h
        simp at *; omega
  · intro c hc
    simp only [Memory.write, List.mem_append, List.mem_filter] at hc
    rcases hc with (h | h) | h
    · exact hv c h.1
    · exact Memory.cells_value bs a c h
    · exact hv c h.1

theorem Memory.find_cells_none (bs : List Byte) (a x : Nat) (h : x < a ∨ a + bs.length ≤ x) :
    (Memory.cells a bs).find? (fun c => c.1 == x) = none := by
  rw [List.find?_eq_none]
  intro c hc
  have := Memory.cells_range bs a c hc
  simp; omega

theorem Memory.find_filter_none {m : List Host.Cell} {p : Host.Cell → Bool} {x : Nat}
    (h : ∀ c : Host.Cell, c.1 = x → p c = false) : (m.filter p).find? (fun c => c.1 == x) = none := by
  rw [List.find?_eq_none]
  intro c hc
  have hp := (List.mem_filter.1 hc).2
  intro he
  have he' : c.1 = x := by simpa using he
  rw [h c he'] at hp
  exact Bool.noConfusion hp

theorem Memory.find_filter_same {m : List Host.Cell} {p : Host.Cell → Bool} {x : Nat}
    (h : ∀ c : Host.Cell, c.1 = x → p c = true) :
    (m.filter p).find? (fun c => c.1 == x) = m.find? (fun c => c.1 == x) := by
  induction m with
  | nil => rfl
  | cons d t ih =>
    by_cases hd : d.1 = x
    · have hp := h d hd
      simp [hp, hd]
    · have hx : (d.1 == x) = false := by simpa using hd
      by_cases hp : p d = true
      · simp [hp, hx, ih]
      · simp [hp, ih, hx]

/-- A byte outside the bytes written reads as before. -/
theorem Memory.read_write_outside (m : List Host.Cell) (a : Nat) (bs : List Byte) (x : Nat)
    (h : x < a ∨ a + bs.length ≤ x) : Memory.read (Memory.write m a bs) x = Memory.read m x := by
  have e : (Memory.write m a bs).find? (fun c => c.1 == x) = m.find? (fun c => c.1 == x) := by
    unfold Memory.write
    rw [List.find?_append, List.find?_append, Memory.find_cells_none bs a x h]
    rcases h with h | h
    · rw [Memory.find_filter_same (p := fun c => decide (c.1 < a)) (x := x),
        Memory.find_filter_none (p := fun c => decide (a + bs.length ≤ c.1)) (x := x)]
      · cases m.find? (fun c => c.1 == x) <;> rfl
      · intro c hc; simp; omega
      · intro c hc; simp; omega
    · rw [Memory.find_filter_none (p := fun c => decide (c.1 < a)) (x := x),
        Memory.find_filter_same (p := fun c => decide (a + bs.length ≤ c.1)) (x := x)]
      · cases m.find? (fun c => c.1 == x) <;> rfl
      · intro c hc; simp; omega
      · intro c hc; simp; omega
  unfold Memory.read
  rw [e]

theorem Memory.read_cells (bs : List Byte) (a i : Nat) (h : i < bs.length) :
    (match (Memory.cells a bs).find? (fun c => c.1 == a + i) with
      | some c => c.2
      | none => Config.unwrittenByte) = bs[i] := by
  induction bs generalizing a i with
  | nil => simp at h
  | cons b t ih =>
    cases i with
    | zero =>
      by_cases hb : b = Config.unwrittenByte
      · have e := Memory.find_cells_none t (a + 1) a (Or.inl (by omega))
        simp [Memory.cells, hb, e]
      · simp [Memory.cells, hb]
    | succ j =>
      have hj : j < t.length := by simpa using h
      have this := ih (a + 1) j hj
      have e : a + 1 + j = a + (j + 1) := by omega
      rw [e] at this
      have hne : (a == a + (j + 1)) = false := by simp
      by_cases hb : b = Config.unwrittenByte
      · simpa [Memory.cells, hb] using this
      · simpa [Memory.cells, hb, List.find?_cons, hne] using this

/-- A byte inside the bytes written reads as the byte written. -/
theorem Memory.read_write_inside (m : List Host.Cell) (a : Nat) (bs : List Byte) (i : Nat) (h : i < bs.length) :
    Memory.read (Memory.write m a bs) (a + i) = bs[i] := by
  rw [← Memory.read_cells bs a i h]
  unfold Memory.read Memory.write
  rw [List.find?_append, List.find?_append,
    Memory.find_filter_none (p := fun c => decide (c.1 < a)) (x := a + i),
    Memory.find_filter_none (p := fun c => decide (a + bs.length ≤ c.1)) (x := a + i)]
  · cases (Memory.cells a bs).find? (fun c => c.1 == a + i) <;> rfl
  · intro c hc; simp; omega
  · intro c hc; simp; omega

/-- Reading back bytes just written. -/
theorem Memory.readBytes_write (m : List Host.Cell) (a : Nat) (bs : List Byte) :
    Memory.readBytes (Memory.write m a bs) a bs.length = bs := by
  apply List.ext_getElem
  · simp [Memory.readBytes]
  · intro i h1 h2
    simp only [Memory.readBytes, List.getElem_map, List.getElem_range]
    exact Memory.read_write_inside m a bs i h2

end Sys2Proof.Machine
end

