-- ==== Sys2Proof/Laws/Keeps.lean ====
section
/-! SUPPORT. What the shared operations below the ports never change, said once: time, pins, straps, tables, buffer
memory, both ports, the issue hold and the queue of commands stay, the floor control queue and the MN queue stay within
their bounds, the floor control queue only grows at its end, no message starts on the floor port, and the counts of the
stream records stay within their ranges. -/

namespace Sys2Proof.Machine

open Sys2Proof

/-- `t` follows from `s` by operations below the ports. -/
structure Keeps (s t : State) : Prop where
  now     : t.now = s.now
  pins    : t.pins = s.pins
  straps  : t.straps = s.straps
  tables  : t.tables = s.tables
  memory  : t.buffer.memory = s.buffer.memory
  hold    : t.fetch.holdUntil = s.fetch.holdUntil
  array   : t.array = s.array
  floor   : t.floor = s.floor
  waiting : t.responder.waiting = s.responder.waiting
  pending : t.pending = s.pending
  control : s.tx.control.length ≤ Config.controlQueue → t.tx.control.length ≤ Config.controlQueue
  notices : s.responder.notices.length ≤ Config.noticeQueue → t.responder.notices.length ≤ Config.noticeQueue
  counted : s.Counted → t.Counted
  segment : s.SegmentOk → t.SegmentOk
  placed  : s.tx.control <+: t.tx.control
  silent  : s.tx.sending = none → t.tx.sending = none

namespace Keeps

variable {s t : State}

theorem refl (s : State) : Keeps s s :=
  ⟨rfl, rfl, rfl, rfl, rfl, rfl, rfl, rfl, rfl, rfl, id, id, id, id, List.prefix_rfl, id⟩

/-- A change of fields that `Keeps` does not speak of. -/
theorem change {u : State} (h : Keeps s t) (e : Keeps t u) : Keeps s u :=
  { now := e.now.trans h.now, pins := e.pins.trans h.pins, straps := e.straps.trans h.straps,
    tables := e.tables.trans h.tables, memory := e.memory.trans h.memory, hold := e.hold.trans h.hold,
    array := e.array.trans h.array, floor := e.floor.trans h.floor, waiting := e.waiting.trans h.waiting,
    pending := e.pending.trans h.pending, control := fun x => e.control (h.control x),
    notices := fun x => e.notices (h.notices x), counted := fun x => e.counted (h.counted x),
    segment := fun x => e.segment (h.segment x), placed := h.placed.trans e.placed,
    silent := fun x => e.silent (h.silent x) }

/-! ## Records by handle -/

theorem setStream (h : Keeps s t) (k : Handle) {r : Stream} (hr : s.Counted → r.Counted) :
    Keeps s (t.setStream k r) :=
  { h with
    counted := fun hc j => by
      by_cases e : k = j
      · subst e; simpa using hr hc
      · rw [State.stream_setStream_of_ne t e]; exact h.counted hc j }

/-- A change of a record that leaves its counts. -/
theorem edit (h : Keeps s t) (k : Handle) {r : Stream} (h1 : r.credit = (t.stream k).credit)
    (h2 : r.gaps = (t.stream k).gaps) : Keeps s (t.setStream k r) :=
  h.setStream k (fun hc => by
    have := h.counted hc k
    unfold Stream.Counted at *
    rw [h1, h2]; exact this)

theorem setWindow (h : Keeps s t) (k : Handle) (w : Window) : Keeps s (t.setWindow k w) := { h with }
theorem setCadence (h : Keeps s t) (k : Handle) (c : Cadence) : Keeps s (t.setCadence k c) := { h with }
theorem setCursor (h : Keeps s t) (k : Handle) (c : Option Nat) : Keeps s (t.setCursor k c) := { h with }
theorem mapSlot (h : Keeps s t) (k : Handle) (serial : Nat) (f : Slot → Slot) : Keeps s (t.mapSlot k serial f) :=
  { h with }
theorem removeSlot (h : Keeps s t) (k : Handle) (serial : Nat) : Keeps s (t.removeSlot k serial) := { h with }
theorem stopCadence (h : Keeps s t) (k : Handle) : Keeps s (t.stopCadence k) := { h with }
theorem bumpIndex (h : Keeps s t) (k : Handle) : Keeps s (t.bumpIndex k) := { h with }
theorem setRule (h : Keeps s t) (r : RuleNumber) (x : RuleState) : Keeps s (t.setRule r x) := { h with }
theorem reserve (h : Keeps s t) (k : Handle) : Keeps s (t.reserve k) := h.edit k rfl rfl

/-! ## Messages -/

theorem pushControl (h : Keeps s t) (m : FloorControl) (room : t.controlRoom = true) : Keeps s (t.pushControl m) :=
  { h with
    control := fun _ => by
      have : t.tx.control.length < Config.controlQueue := of_decide_eq_true room
      simp; omega
    placed := h.placed.trans (List.prefix_append ..) }

theorem loseNotice (h : Keeps s t) (k : Handle) : Keeps s (t.loseNotice k) := by
  unfold State.loseNotice
  split
  · exact h.edit k rfl rfl
  · exact h

theorem placeControl (h : Keeps s t) (c : Option Handle) (m : FloorControl) : Keeps s (t.placeControl c m) := by
  unfold State.placeControl
  split
  · exact h
  · split
    · rename_i room; exact h.pushControl m room
    · split
      · exact h.loseNotice _
      · exact h

theorem answer (h : Keeps s t) (dst : Half) (req : Word) (handle : Byte) (result : StreamResult) :
    Keeps s (t.answer dst req handle result) := h.placeControl _ _

theorem notifyTo (h : Keeps s t) (dst : Half) (k : Handle) (reason : Reason) : Keeps s (t.notifyTo dst k reason) := by
  unfold State.notifyTo
  split
  · exact h
  · split
    · rename_i room; exact (h.edit k (r := { t.stream k with noticeLost := false }) rfl rfl).pushControl _ room
    · exact h.loseNotice k

theorem notify (h : Keeps s t) (k : Handle) (reason : Reason) : Keeps s (t.notify k reason) := by
  unfold State.notify
  split
  · exact h.notifyTo _ k reason
  · exact h

theorem notifyOwner (h : Keeps s t) (o : Option Half) (k : Handle) (reason : Reason) :
    Keeps s (t.notifyOwner o k reason) := by
  unfold State.notifyOwner
  split
  · exact h.notifyTo _ k reason
  · exact h

theorem pushNotice (h : Keeps s t) (n : Notice) : Keeps s (t.pushNotice n) := by
  unfold State.pushNotice
  split
  · rename_i room
    exact { h with notices := fun _ => by simp; omega }
  · exact { h with }

/-! ## The span buffer -/

theorem putSpan (h : Keeps s t) (i : Nat) (x : Span) : Keeps s (t.putSpan i x) := { h with }

theorem putFetch (h : Keeps s t) (i : Nat) (f : Fetch) : Keeps s (t.putFetch i f) := by
  unfold State.putFetch
  split
  · exact h.putSpan i _
  · exact h

theorem nextSequence (h : Keeps s t) : Keeps s t.nextSequence := { h with }

theorem take_memory {b b' : SpanBuffer} {i : Nat} (e : b.take = some (i, b')) : b'.memory = b.memory := by
  unfold SpanBuffer.take at e
  split at e
  · cases e; rfl
  · split at e
    · cases e; rfl
    · split at e
      · cases e; rfl
      · cases e

theorem allocate (h : Keeps s t) {k : Key} {refs : List Referrer} {i : Nat} {u : State}
    (e : t.allocate k refs = some (i, u)) : Keeps s u := by
  unfold State.allocate at e
  split at e
  · cases e
  · rename_i j b hb
    cases e
    exact { h with memory := (take_memory hb).trans h.memory }

theorem nameSpan (h : Keeps s t) (k : Key) (span : Option Nat) (l : List Referrer) : Keeps s (t.nameSpan k span l) := by
  induction l generalizing t with
  | nil => exact h
  | cons r l ih => exact ih (h.mapSlot _ _ _)

theorem serveKeys (h : Keeps s t) (l : List WaitingKey) : Keeps s (t.serveKeys l) := by
  induction l generalizing t with
  | nil => exact { h with }
  | cons w l ih =>
    unfold State.serveKeys
    split
    · exact { h with }
    · rename_i e; exact ih ((h.allocate e).nameSpan _ _ _)

theorem serve (h : Keeps s t) : Keeps s t.serve := h.serveKeys _
theorem waitFor (h : Keeps s t) (k : Key) (refs : List Referrer) : Keeps s (t.waitFor k refs) := { h with }
theorem leaveKey (h : Keeps s t) (j : Handle) (serial : Nat) (k : Key) : Keeps s (t.leaveKey j serial k) := { h with }

theorem freeSpan (h : Keeps s t) (i : Nat) : Keeps s (t.freeSpan i) := by
  unfold State.freeSpan
  apply serve
  exact { h with }

theorem restSpan (h : Keeps s t) (i : Nat) : Keeps s (t.restSpan i) := by
  unfold State.restSpan
  apply serve
  exact { h with }

theorem settleUse (h : Keeps s t) (i : Nat) : Keeps s (t.settleUse i) := by
  unfold State.settleUse
  split
  · exact h
  · split
    · split
      · exact h.restSpan i
      · exact h
    · split
      · exact h.freeSpan i
      · exact h
    · split
      · split
        · exact h.freeSpan i
        · exact h.freeSpan i
        · exact h
      · exact h.putSpan i _

theorem attach (h : Keeps s t) (r : Referrer) (k : Key) : Keeps s (t.attach r k).1 := by
  unfold State.attach
  split
  · split
    · exact h
    · exact { h with }
  · split
    · exact { h with }
    · split
      · rename_i e; exact h.allocate e
      · exact h.waitFor k _

theorem detachSpan (h : Keeps s t) (j : Handle) (serial i : Nat) : Keeps s (t.detachSpan j serial i) := by
  unfold State.detachSpan
  split
  · exact h
  · split
    · exact (h.putSpan i _).settleUse i
    · exact h

theorem detachKey (h : Keeps s t) (j : Handle) (serial : Nat) (k : Key) : Keeps s (t.detachKey j serial k) := by
  unfold State.detachKey
  split
  · exact h.detachSpan j serial _
  · exact h.leaveKey j serial k

theorem detachKeys (h : Keeps s t) (j : Handle) (serial : Nat) (l : List Key) :
    Keeps s (t.detachKeys j serial l) := by
  induction l generalizing t with
  | nil => exact h
  | cons k l ih => exact ih (h.detachKey j serial k)

theorem mapEntry (h : Keeps s t) (j : Handle) (serial : Nat) (f : Referrer → Referrer) (e : PageEntry) :
    Keeps s (t.mapEntry j serial f e) := by
  unfold State.mapEntry
  split
  · split
    · exact h
    · exact h.putSpan _ _
  · exact { h with }

theorem mapEntries (h : Keeps s t) (j : Handle) (serial : Nat) (f : Referrer → Referrer) (l : List PageEntry) :
    Keeps s (t.mapEntries j serial f l) := by
  induction l generalizing t with
  | nil => exact h
  | cons e l ih => exact ih (h.mapEntry j serial f e)

/-! ## Windows -/

theorem setDeadline (h : Keeps s t) (k : Handle) (serial d : Nat) : Keeps s (t.setDeadline k serial d) := by
  unfold State.setDeadline
  split
  · exact h
  · exact (h.mapSlot k serial _).mapEntries k serial _ _

theorem setDeadlines (h : Keeps s t) (k : Handle) (j : Nat) (l : List Nat) : Keeps s (t.setDeadlines k j l) := by
  induction l generalizing t j with
  | nil => exact h
  | cons x l ih => exact ih (h.setDeadline k x _) (j + 1)

theorem recomputeDeadlines (h : Keeps s t) (k : Handle) : Keeps s (t.recomputeDeadlines k) := h.setDeadlines k 0 _

theorem attachAll (h : Keeps s t) (r : Referrer) (l : List PageEntry) : Keeps s (t.attachAll r l).state := by
  induction l generalizing t with
  | nil => exact h
  | cons e l ih => exact ih (h.attach r e.key)

theorem createSlot (h : Keeps s t) (k : Handle) (f j : Nat) : Keeps s (t.createSlot k f j) :=
  (attachAll (t := { t with nextSlot := t.nextSlot + 1 }) { h with } _ _).setWindow k _

theorem detachSlot (h : Keeps s t) (k : Handle) (serial : Nat) : Keeps s (t.detachSlot k serial) := by
  unfold State.detachSlot
  split
  · exact h
  · exact (h.detachKeys k serial _).removeSlot k serial

theorem detachSlots (h : Keeps s t) (k : Handle) (l : List Nat) : Keeps s (t.detachSlots k l) := by
  induction l generalizing t with
  | nil => exact h
  | cons x l ih => exact ih (h.detachSlot k x)

theorem detachWindow (h : Keeps s t) (k : Handle) : Keeps s (t.detachWindow k) := h.detachSlots k _
theorem detachSending (h : Keeps s t) (k : Handle) : Keeps s (t.detachSending k) := h.detachSlots k _

theorem topUpPasses (h : Keeps s t) (k : Handle) (n : Nat) : Keeps s (t.topUpPasses k n) := by
  induction n generalizing t with
  | zero => exact h
  | succ n ih =>
    unfold State.topUpPasses
    split
    · exact h
    · split
      · exact ih ((h.createSlot k _ _).setCursor k _)
      · exact h

theorem topUp (h : Keeps s t) (k : Handle) : Keeps s (t.topUp k) := by
  unfold State.topUp
  split
  · exact h.topUpPasses k _
  · exact h

theorem build (h : Keeps s t) (k : Handle) : Keeps s (t.build k) := (h.setCursor k _).topUp k

theorem rebuild (h : Keeps s t) (k : Handle) : Keeps s (t.rebuild k) := by
  unfold State.rebuild
  split
  · exact (h.detachWindow k).build k
  · exact h

theorem fillPlaces (h : Keeps s t) (k : Handle) (j : Nat) (l : List Nat) : Keeps s (t.fillPlaces k j l) := by
  induction l generalizing t j with
  | nil => exact h
  | cons f l ih =>
    unfold State.fillPlaces
    split
    · exact ih h (j + 1)
    · exact ih (h.createSlot k f j) (j + 1)

theorem foldDeadlines (h : Keeps s t) (k : Handle) (l : List (Nat × Nat)) :
    Keeps s (l.foldl (fun s p => s.setDeadline k p.2 (s.slotDeadline k p.1)) t) := by
  induction l generalizing t with
  | nil => exact h
  | cons p l ih => exact ih (h.setDeadline k _ _)

theorem retarget (h : Keeps s t) (k : Handle) : Keeps s (t.retarget k) :=
  ((((h.detachSlots k _).setWindow k _).foldDeadlines k _).fillPlaces k 0 _).setCursor k _

theorem reduceWindow (h : Keeps s t) (k : Handle) : Keeps s (t.reduceWindow k) := by
  unfold State.reduceWindow
  dsimp only
  split
  · exact h
  · exact (h.detachSlots k _).setCursor k _

theorem fillSlots (h : Keeps s t) (mark : Bool) (l : List Referrer) : Keeps s (t.fillSlots mark l) := by
  induction l generalizing t with
  | nil => exact h
  | cons r l ih => exact ih (h.mapSlot _ _ _)

theorem failSlots (h : Keeps s t) (k : Key) (l : List Referrer) : Keeps s (t.failSlots k l) := by
  induction l generalizing t with
  | nil => exact h
  | cons r l ih => exact ih ((h.detachKeys _ _ _).mapSlot _ _ _)

theorem moveSlots (h : Keeps s t) (k : Key) (span : Option Nat) (l : List Referrer) :
    Keeps s (t.moveSlots k span l) := by
  induction l generalizing t with
  | nil => exact h
  | cons r l ih => exact ih (h.mapSlot _ _ _)

theorem staleSlots (h : Keeps s t) (l : List Referrer) : Keeps s (t.staleSlots l) := by
  induction l generalizing t with
  | nil => exact h
  | cons r l ih => exact ih (h.mapSlot _ _ _)

/-! ## Cadence and delivery -/

theorem moveTo (h : Keeps s t) (k : Handle) (st : StreamState) : Keeps s (t.moveTo k st) :=
  (h.edit k (r := { t.stream k with state := st, pauseReason := none }) rfl rfl).stopCadence k

theorem pauseFor (h : Keeps s t) (k : Handle) (why : PauseReason) (reason : Reason) :
    Keeps s (t.pauseFor k why reason) :=
  ((h.edit k (r := { t.stream k with state := .paused, pauseReason := some why }) rfl rfl).stopCadence k).notify
    k reason

theorem takeAnchor (h : Keeps s t) (k : Handle) (a : Nat) : Keeps s (t.takeAnchor k a) :=
  (h.setCadence k _).recomputeDeadlines k

theorem endOfClip (h : Keeps s t) (k : Handle) : Keeps s (t.endOfClip k) :=
  ((((h.edit k (r := { t.stream k with position := t.lastFrame (t.stream k) }) rfl rfl).moveTo k .idle).detachWindow
    k).detachSending k).notify k .ended

theorem startFrame (h : Keeps s t) (k : Handle) (x : Slot) : Keeps s (t.startFrame k x) := by
  have h' := (h.setWindow k { t.window k with
    slots := (t.window k).slots.filter (fun y => y.serial != x.serial),
    sending := (t.window k).sending
      ++ ((t.window k).slots.filter (fun y => y.serial == x.serial)).map (fun y => { y with state := .sending }) }).mapEntries
      k x.serial
      (fun r => { r with sending := true }) x.pages
  exact { h' with }

theorem advancePosition (h : Keeps s t) (k : Handle) : Keeps s (t.advancePosition k) := by
  unfold State.advancePosition
  dsimp only
  split
  · exact h.edit k rfl rfl
  · split
    · exact h.edit k rfl rfl
    · exact h

theorem deliverSent (h : Keeps s t) (k : Handle) (x : Slot) : Keeps s (t.deliverSent k x) := by
  have h1 : Keeps s (t.setStream k { t.stream k with credit := (t.stream k).credit - 1 }) :=
    h.setStream k (fun hc => ⟨Nat.le_trans (Nat.sub_le _ _) (h.counted hc k).1, (h.counted hc k).2⟩)
  have h2 := (h1.startFrame k x).bumpIndex k
  unfold State.deliverSent
  dsimp only
  apply advancePosition
  apply setStream h2
  exact fun hc => ⟨(h2.counted hc k).1, Nat.zero_le _⟩

theorem starveCheck (h : Keeps s t) (k : Handle) : Keeps s (t.starveCheck k) := by
  unfold State.starveCheck
  dsimp only
  split
  · exact h.pauseFor k _ _
  · exact h

theorem countGap {r : Stream} (h : r.Counted) : r.countGap.Counted := by
  refine ⟨h.1, ?_⟩
  have := h.2
  unfold Stream.countGap
  dsimp only
  split <;> omega

theorem deliverGap (h : Keeps s t) (k : Handle) (x : Slot) (cause : GapCause) : Keeps s (t.deliverGap k x cause) := by
  have h1 := h.bumpIndex k
  have h2 := h1.setStream k (r := ((t.bumpIndex k).stream k).countGap) (fun hc => countGap (h1.counted hc k))
  have h3 := ((((h2.placeControl (some k) (.fg ((((t.bumpIndex k).setStream k
    ((t.bumpIndex k).stream k).countGap).stream k).owner.getD 0) k cause x.frame)).detachSlot k
      x.serial).advancePosition k).topUp k)
  unfold State.deliverGap
  dsimp only
  split
  · exact h3.endOfClip k
  · exact h3.starveCheck k

theorem decideDue (h : Keeps s t) (k : Handle) : Keeps s (t.decideDue k) := by
  unfold State.decideDue
  split
  · exact h.setCadence k _
  · exact h.deliverSent k _
  · exact h.deliverGap k _ _

theorem settleWait (h : Keeps s t) (k : Handle) : Keeps s (t.settleWait k) := by
  unfold State.settleWait
  split
  · split
    · exact h
    · exact (h.takeAnchor k _).deliverSent k _
    · exact (h.takeAnchor k _).deliverGap k _ _
  · exact h

/-! ## Streams -/

theorem enterPlaying (h : Keeps s t) (k : Handle) : Keeps s (t.enterPlaying k) := by
  unfold State.enterPlaying
  dsimp only
  split
  · split
    · exact h
    · exact h.pauseFor k _ _
  · apply decideDue
    apply notify
    apply takeAnchor
    apply setCadence
    apply setStream h
    exact fun hc => ⟨(h.counted hc k).1, Nat.zero_le _⟩

theorem completePriming (h : Keeps s t) (k : Handle) : Keeps s (t.completePriming k) := by
  have h1 : Keeps s (t.setStream k { t.stream k with autoplay := false }) := h.edit k rfl rfl
  unfold State.completePriming
  dsimp only
  split
  · exact h1.enterPlaying k
  · exact (h1.moveTo k _).notify k _

theorem reportPriming (h : Keeps s t) (k : Handle) : Keeps s (t.reportPriming k) := by
  unfold State.reportPriming
  split
  · exact h.completePriming k
  · exact h

theorem windowChanged (h : Keeps s t) (k : Handle) : Keeps s (t.windowChanged k) := by
  unfold State.windowChanged
  split
  · exact h.reportPriming k
  · exact h.settleWait k

theorem windowsChanged (h : Keeps s t) (l : List Handle) : Keeps s (t.windowsChanged l) := by
  induction l generalizing t with
  | nil => exact h
  | cons k l ih => exact ih (h.windowChanged k)

theorem enterPriming (h : Keeps s t) (k : Handle) (a : Bool) : Keeps s (t.enterPriming k a) := by
  have h1 := (h.edit k (r := { t.stream k with autoplay := a }) rfl rfl).moveTo k .priming
  unfold State.enterPriming
  dsimp only
  split
  · exact h1.build k
  · exact h1.retarget k

theorem clearRecord (h : Keeps s t) (k : Handle) : Keeps s (t.clearRecord k) :=
  ((h.setStream k (r := (t.stream k).cleared) (fun _ => ⟨Nat.zero_le _, Nat.zero_le _⟩)).stopCadence k).setCursor k none

theorem completeClose (h : Keeps s t) (k : Handle) : Keeps s (t.completeClose k) :=
  (((h.detachWindow k).detachSending k).clearRecord k).notifyOwner _ k _

theorem beginClose (h : Keeps s t) (k : Handle) (w : Bool) : Keeps s (t.beginClose k w) :=
  ((h.edit k (r := { t.stream k with autoplay := false, probe := none, probeExpiry := none, withdrawn := w })
    rfl rfl).moveTo k .closing).detachWindow k

theorem finishClose (h : Keeps s t) (k : Handle) : Keeps s (t.finishClose k) := by
  unfold State.finishClose
  split
  · exact h.completeClose k
  · exact h

theorem abandonFrames (h : Keeps s t) (k : Handle) : Keeps s (t.abandonFrames k) :=
  { h with
    segment := fun x => by
      have y := h.segment x
      unfold State.SegmentOk at *
      unfold State.abandonFrames
      dsimp only
      cases hs : t.tx.sending with
      | none => trivial
      | some m =>
        rw [hs] at y
        cases m with
        | segment d fd =>
          by_cases e : d.handle = k
          · simp [e]
          · rcases y with y | y
            · simp [e, y]
            · simp [e, y]
        | _ => trivial
    silent := fun x => by
      have y := h.silent x
      unfold State.abandonFrames
      dsimp only
      rw [y] }

theorem closeAtOnce (h : Keeps s t) (k : Handle) : Keeps s (t.closeAtOnce k) := by
  unfold State.closeAtOnce
  dsimp only
  split
  · exact ((((h.abandonFrames k).detachSending k).detachWindow k).clearRecord k).notifyOwner _ k _
  · exact h

theorem closeAll (h : Keeps s t) (l : List Handle) : Keeps s (t.closeAll l) := by
  induction l generalizing t with
  | nil => exact h
  | cons k l ih => exact ih (h.closeAtOnce k)

theorem transmissionEnded (h : Keeps s t) (k : Handle) (serial : Nat) : Keeps s (t.transmissionEnded k serial) := by
  have h1 := h.detachSlot k serial
  unfold State.transmissionEnded
  dsimp only
  split
  · exact h1.finishClose k
  · exact (h1.topUp k).reportPriming k
  · exact h1.topUp k
  · split
    · exact (h1.topUp k).endOfClip k
    · exact (h1.topUp k).settleWait k
  · split
    · exact (h1.topUp k).endOfClip k
    · exact h1.topUp k
  · exact h1

theorem faultStream (h : Keeps s t) (k : Handle) (reason : Reason) : Keeps s (t.faultStream k reason) := by
  have h1 := (((((h.moveTo k .faulted).abandonFrames k).detachSending k).detachWindow k).setCursor k none)
  unfold State.faultStream
  dsimp only
  apply notify
  apply edit h1 <;> rfl

theorem endNegotiation (h : Keeps s t) (k : Handle) (r : Rendition) (reason : Reason) :
    Keeps s (t.endNegotiation k r reason) :=
  (((h.edit k (r := { t.stream k with rendition := r, probe := none, probeExpiry := none }) rfl rfl).moveTo k
    .idle).reserve k).notify k reason

theorem changeRate (h : Keeps s t) (k : Handle) : Keeps s (t.changeRate k) := by
  unfold State.changeRate
  dsimp only
  split
  · split
    · exact (h.setCadence k _).takeAnchor k _
    · exact h.setCadence k _
  · exact h

theorem keepOrRebuild (h : Keeps s t) (k : Handle) (old : Option RenditionRecord) :
    Keeps s (t.keepOrRebuild k old) := by
  unfold State.keepOrRebuild
  split
  · split
    · exact h
    · exact (h.rebuild k).windowChanged k
  · exact (h.rebuild k).windowChanged k

theorem rebind (h : Keeps s t) (k : Handle) (c : Clip) (e : Word) : Keeps s (t.rebind k c e) := by
  unfold State.rebind
  dsimp only
  split
  · exact h.faultStream k _
  · have h1 := h.edit k (r := { t.stream k with
      binding := some (c.clipId, e),
      reservation := reservationFor (t.stream k).state (t.stream k).effDepth (t.stream k).rendition c }) rfl rfl
    split
    · split
      · exact h1.endNegotiation k _ _
      · exact h1
    · split
      · exact (h1.changeRate k).keepOrRebuild k _
      · exact h1

theorem closeWithdrawn (h : Keeps s t) (k : Handle) : Keeps s (t.closeWithdrawn k) :=
  (h.beginClose k true).finishClose k

theorem settleBinding (h : Keeps s t) (k : Handle) (r : Stream) : Keeps s (t.settleBinding k r) := by
  unfold State.settleBinding
  split
  · exact h
  · split
    · exact h.faultStream k _
    · split
      · exact h.faultStream k _
      · split
        · exact h.faultStream k _
        · split
          · exact h
          · split
            · exact h
            · exact h.rebind k _ _

theorem visit (h : Keeps s t) (k : Handle) : Keeps s (t.visit k) := by
  unfold State.visit
  dsimp only
  split
  · exact h
  · exact h
  · split
    · exact h
    · exact h.closeWithdrawn k
  · split
    · exact h.settleBinding k _
    · exact h.closeWithdrawn k

/-! ## Shedding -/

theorem demote (h : Keeps s t) (k : Handle) : Keeps s (t.demote k) := by
  unfold State.demote
  dsimp only
  split
  · exact h
  · split
    · exact h
    · split
      · exact (h.edit k (r := { t.stream k with demoted := true }) rfl rfl).endNegotiation k _ _
      · split
        · exact h
        · apply windowChanged
          apply notify
          apply rebuild
          apply edit h <;> rfl

theorem shallow (h : Keeps s t) (k : Handle) : Keeps s (t.shallow k) := by
  unfold State.shallow
  dsimp only
  split
  · exact h
  · apply reportPriming
    apply notify
    apply reduceWindow
    apply reserve
    apply edit h <;> rfl

theorem shedPause (h : Keeps s t) (k : Handle) : Keeps s (t.shedPause k) := by
  unfold State.shedPause
  split
  · exact h.pauseFor k _ _
  · exact (h.edit k (r := { t.stream k with autoplay := false }) rfl rfl).pauseFor k _ _
  · exact h

theorem shedAct (h : Keeps s t) (act : ShedAction) (k : Handle) : Keeps s (t.shedAct act k) := by
  unfold State.shedAct
  split
  · exact h.demote k
  · exact h.shallow k
  · exact h.shedPause k

theorem applyRule (h : Keeps s t) (r : RuleNumber) (act : ShedAction) (l : List Handle) :
    Keeps s (t.applyRule r act l) := by
  induction l generalizing t with
  | nil => exact h
  | cons k l ih => exact ih ((h.edit k (r := (t.stream k).addMark r) rfl rfl).shedAct act k)

theorem trip (h : Keeps s t) (r : RuleNumber) : Keeps s (t.trip r) :=
  ((h.setRule r .tripped).pushNotice _).applyRule r _ _

theorem evaluate (h : Keeps s t) (l : List RuleNumber) : Keeps s (t.evaluate l) := by
  induction l generalizing t with
  | nil => exact h
  | cons r l ih =>
    unfold State.evaluate
    split
    · exact ih (h.trip r)
    · exact ih h

theorem transition (h : Keeps s t) (src : Source) : Keeps s (t.transition src) := h.evaluate _

theorem transitionAll (h : Keeps s t) (l : List Source) : Keeps s (t.transitionAll l) := by
  induction l generalizing t with
  | nil => exact h
  | cons x l ih => exact ih (h.transition x)

theorem transitions (h : Keeps s t) (l : List Source) : Keeps s (t.transitions l) := by
  unfold State.transitions
  split
  · exact h.transitionAll l
  · exact transitionAll (t := { t with choices := t.choices + 1 }) { h with } _

theorem sampleTags (h : Keeps s t) : Keeps s t.sampleTags := by
  unfold State.sampleTags
  dsimp only
  apply transitions
  exact { h with }

theorem sampleCompletion (h : Keeps s t) (v : Nat) : Keeps s (t.sampleCompletion v) := by
  unfold State.sampleCompletion
  dsimp only
  apply transitions
  exact { h with }

theorem promote (h : Keeps s t) (k : Handle) : Keeps s (t.promote k) := by
  unfold State.promote
  dsimp only
  split
  · split
    · apply windowChanged
      apply notify
      apply rebuild
      apply edit h <;> rfl
    · apply notify
      apply edit h <;> rfl
  · exact h

theorem restoreDepth (h : Keeps s t) (k : Handle) : Keeps s (t.restoreDepth k) := by
  unfold State.restoreDepth
  dsimp only
  split
  · exact h
  · split
    · split
      · apply windowChanged
        apply notify
        apply topUp
        apply edit h <;> rfl
      · exact h.notify k _
    · exact h

theorem resume (h : Keeps s t) (k : Handle) : Keeps s (t.resume k) := by
  unfold State.resume
  dsimp only
  split
  · exact h.enterPlaying k
  · exact h

theorem unshed (h : Keeps s t) (act : ShedAction) (k : Handle) : Keeps s (t.unshed act k) := by
  unfold State.unshed
  split
  · exact h.promote k
  · exact h.restoreDepth k
  · exact h.resume k

theorem unmark (h : Keeps s t) (r : RuleNumber) (act : ShedAction) (l : List Handle) : Keeps s (t.unmark r act l) := by
  induction l generalizing t with
  | nil => exact h
  | cons k l ih =>
    have h1 := h.edit k (r := (t.stream k).dropMark r) rfl rfl
    unfold State.unmark
    dsimp only
    split
    · split
      · exact ih h1
      · exact ih (h1.unshed act k)
    · exact ih h

theorem clearRule (h : Keeps s t) (r : RuleNumber) : Keeps s (t.clearRule r) := (h.setRule r .armed).unmark r _ _

theorem rearm (h : Keeps s t) (before : ShedSettings) : Keeps s (t.rearm before) := by
  unfold State.rearm
  dsimp only
  apply evaluate
  exact { h with }

/-! ## The fetch scheduler -/

theorem count (h : Keeps s t) (f : FetchCounts → FetchCounts) : Keeps s (t.count f) := { h with }
theorem advanceTag (h : Keeps s t) (i : TagIndex) : Keeps s (t.advanceTag i) := { h with }

theorem mapFetch (h : Keeps s t) (i : Nat) (f : Fetch → Fetch) : Keeps s (t.mapFetch i f) := by
  unfold State.mapFetch
  split
  · exact h
  · exact h.putFetch i _

theorem sendContinuation (h : Keeps s t) (i : Nat) (x : Span) (f : Fetch) (tag : TagIndex) :
    Keeps s (t.sendContinuation i x f tag).2 := { h with }

theorem issue (h : Keeps s t) (i : Nat) (x : Span) (f : Fetch) (tag : TagIndex) : Keeps s (t.issue i x f tag).2 :=
  ((h.putSpan i _).count _).sampleTags

theorem issueTurn (h : Keeps s t) {br : OwnRead} {u : State} (e : t.issueTurn = some (br, u)) : Keeps s u := by
  unfold State.issueTurn at e
  split at e
  · split at e
    · split at e
      · cases e
      · rename_i i f tag _ _ x _
        have this := congrArg Prod.snd (Option.some.inj e)
        dsimp only at this
        rw [← this]
        exact h.issue _ _ _ _
    · cases e
  · cases e

theorem fetchTurn (h : Keeps s t) {br : OwnRead} {u : State} (e : t.fetchTurn = some (br, u)) : Keeps s u := by
  unfold State.fetchTurn at e
  split at e
  · exact h.issueTurn e
  · split at e
    · cases e
    · split at e
      · cases e
      · split at e
        · cases e
        · have this := congrArg Prod.snd (Option.some.inj e)
          dsimp only at this
          rw [← this]
          exact h.sendContinuation _ _ _ _

theorem release (h : Keeps s t) (i : Nat) : Keeps s (t.release i) := by
  unfold State.release
  split
  · exact h
  · rename_i f _
    have h1 := h.putFetch i { f with tag := none, received := 0, issueTime := none, expiry := none, waiting := false }
    dsimp only
    split
    · exact { h1 with }
    · exact { h1 with }

theorem releaseAll (h : Keeps s t) (l : List Nat) : Keeps s (t.releaseAll l) := by
  induction l generalizing t with
  | nil => exact h
  | cons i l ih => exact ih (h.release i)

theorem sampleAfter (h : Keeps s t) (l : List Nat) : Keeps s (t.sampleAfter l) := by
  unfold State.sampleAfter
  split
  · exact h
  · exact h.sampleTags

theorem requeue (h : Keeps s t) (fresh : Bool) (i : Nat) : Keeps s (t.requeue fresh i) := by
  unfold State.requeue
  split
  · exact h
  · split
    · split
      · exact (h.mapFetch i _).nextSequence
      · exact h.mapFetch i _
    · exact h.freeSpan i

theorem requeueAll (h : Keeps s t) (l : List Nat) : Keeps s (t.requeueAll l) := by
  induction l generalizing t with
  | nil => exact h
  | cons i l ih => exact ih (h.requeue false i)

theorem fillComplete (h : Keeps s t) (i : Nat) (x : Span) (report : Bool) : Keeps s (t.fillComplete i x report) := by
  unfold State.fillComplete
  dsimp only
  split
  · exact (h.putSpan i _).restSpan i
  · exact ((h.putSpan i _).fillSlots _ _).windowsChanged _

theorem refillDiscard (h : Keeps s t) (i : Nat) (x : Span) : Keeps s (t.refillDiscard i x) :=
  (((h.count _).putSpan i _).mapFetch i _).requeue true i

theorem completePage (h : Keeps s t) (i : Nat) (f : Fetch) : Keeps s (t.completePage i f) := by
  have h1 := ((h.release i).sampleCompletion (t.now - f.firstIssue.getD t.now)).count
    (fun c => { c with completions := c.completions + 1 })
  unfold State.completePage
  dsimp only
  split
  · exact h1
  · split
    · exact h1.refillDiscard i _
    · exact h1.fillComplete i _ _

theorem fillFails (h : Keeps s t) (i : Nat) (x : Span) : Keeps s (t.fillFails i x) :=
  ((h.freeSpan i).failSlots _ _).windowsChanged _

theorem fetchFails (h : Keeps s t) (i : Nat) (x : Span) (c : Bool) : Keeps s (t.fetchFails i x c) :=
  ((h.pushNotice _).count _).fillFails i x

theorem failedAttempt (h : Keeps s t) (i : Nat) (c : Bool) : Keeps s (t.failedAttempt i c) := by
  have h1 := (((h.release i).sampleTags).mapFetch i (fun f => { f with failures := f.failures + 1 })).count
    (fun c => { c with failedAttempts := c.failedAttempts + 1 })
  unfold State.failedAttempt
  dsimp only
  split
  · exact h1
  · split
    · exact h1
    · split
      · exact h1.fetchFails i _ c
      · exact h1.requeue true i

theorem leaveOpen (h : Keeps s t) : Keeps s t.leaveOpen := ((h.releaseAll _).sampleAfter _).requeueAll _
theorem returnIssued (h : Keeps s t) : Keeps s t.returnIssued := ((h.releaseAll _).sampleAfter _).requeueAll _
theorem staleReply (h : Keeps s t) : Keeps s t.staleReply := h.count _

theorem shortCompletion (h : Keeps s t) (i : Nat) (f : Fetch) : Keeps s (t.shortCompletion i f) := by
  unfold State.shortCompletion
  dsimp only
  split
  · have h1 := h.putFetch i { f with base := f.base + f.received, received := 0, issueTime := none, expiry := none,
                                     waiting := true }
    exact { h1 with }
  · exact (((h.putFetch i _).release i).sampleTags).requeue false i

theorem goodAttempt (h : Keeps s t) (i : Nat) (f : Fetch) : Keeps s (t.goodAttempt i f) := by
  unfold State.goodAttempt
  split
  · exact h.completePage i f
  · exact h.shortCompletion i f

theorem finalBlock (h : Keeps s t) (i : Nat) (x : Span) (f : Fetch) (total : Nat) (check : Word) :
    Keeps s (t.finalBlock i x f total check) := by
  unfold State.finalBlock
  split
  · exact h.failedAttempt i _
  · split
    · exact h.goodAttempt i f
    · split
      · exact h.failedAttempt i _
      · exact (((h.putFetch i _).count _).pushNotice _).goodAttempt i _

theorem deferRecord (h : Keeps s t) (delay i : Nat) : Keeps s (t.deferRecord delay i) := by
  unfold State.deferRecord
  dsimp only
  split
  · exact h
  · split
    · split
      · exact (h.mapFetch i _).requeue true i
      · exact h.mapFetch i _
    · exact h.freeSpan i

theorem deferRecords (h : Keeps s t) (delay : Nat) (l : List Nat) : Keeps s (t.deferRecords delay l) := by
  induction l generalizing t with
  | nil => exact h
  | cons i l ih => exact ih (h.deferRecord delay i)

theorem deferSpans (h : Keeps s t) (delay : Nat) (l : List Nat) : Keeps s (t.deferSpans delay l) :=
  (((h.releaseAll l).sampleAfter l).count _).deferRecords delay l

theorem deferReply (h : Keeps s t) (len : Nat) (tag : Half) (delay : Nat) : Keeps s (t.deferReply len tag delay) := by
  unfold State.deferReply
  split
  · exact h.deferSpans delay _
  · exact h

theorem timeOut (h : Keeps s t) (tag : TagIndex) : Keeps s (t.timeOut tag) := by
  unfold State.timeOut
  split
  · exact h
  · split
    · exact h
    · split
      · exact h
      · split
        · exact (h.count _).failedAttempt _ _
        · exact h

theorem endDefer (h : Keeps s t) (i : Nat) : Keeps s (t.endDefer i) := by
  unfold State.endDefer
  split
  · exact h
  · split
    · split
      · exact (h.putFetch i _).nextSequence
      · exact h
    · exact h

/-! ## Local answers and rewrite notices -/

theorem setAnswer (h : Keeps s t) (a : LocalAnswer) : Keeps s (t.setAnswer a) := { h with }

theorem joinTurns (h : Keeps s t) (x : TurnSource) : Keeps s (t.joinTurns x) := by
  unfold State.joinTurns
  split
  · exact h
  · exact { h with }

theorem handBlock (h : Keeps s t) (a : LocalAnswer) : Keeps s (t.handBlock a) := (h.setAnswer _).joinTurns _

theorem setPins (h : Keeps s t) (i : Nat) (f : Nat → Nat) : Keeps s (t.setPins i f) := by
  unfold State.setPins
  split
  · exact h
  · exact h.putSpan i _

theorem startAnswer (h : Keeps s t) (i : Nat) (r : BlockRead) (x y : Half) : Keeps s (t.startAnswer i r x y) := by
  have h1 := h.setPins i (fun n => n + 1)
  unfold State.startAnswer
  dsimp only
  apply handBlock
  exact { h1 with }

theorem endAnswer (h : Keeps s t) (a : LocalAnswer) : Keeps s (t.endAnswer a) := by
  unfold State.endAnswer
  apply settleUse
  apply setPins
  exact { h with }

theorem abandonAnswers (h : Keeps s t) (l : List LocalAnswer) : Keeps s (t.abandonAnswers l) := by
  induction l generalizing t with
  | nil => exact h
  | cons a l ih => exact ih (h.endAnswer a)

theorem freeUnused (h : Keeps s t) (i : Nat) : Keeps s (t.freeUnused i) := by
  unfold State.freeUnused
  split
  · exact h
  · split
    · exact h.freeSpan i
    · exact h

theorem moveUsers (h : Keeps s t) (k : Key) (l : List Referrer) : Keeps s (t.moveUsers k l) := by
  unfold State.moveUsers
  split
  · exact h
  · split
    · rename_i e; exact (h.allocate e).moveSlots _ _ _
    · exact (h.waitFor k _).moveSlots _ _ _

theorem split (h : Keeps s t) (i : Nat) (x : Span) : Keeps s (t.split i x) :=
  (((h.putSpan i _).staleSlots _).moveUsers _ _).freeUnused i

theorem rewriteSpan (h : Keeps s t) (i : Nat) (k : Key) : Keeps s (t.rewriteSpan i k) := by
  unfold State.rewriteSpan
  split
  · exact h
  · split
    · split
      · exact h.putSpan i _
      · split
        · apply freeSpan
          exact { h with }
        · exact h.split i _
      · exact h
    · exact h

theorem rewriteSpans (h : Keeps s t) (l : List (Nat × Key)) : Keeps s (t.rewriteSpans l) := by
  induction l generalizing t with
  | nil => exact h
  | cons e l ih => exact ih (h.rewriteSpan _ _)

theorem rewrite (h : Keeps s t) (w : Rewrite) : Keeps s (t.rewrite w) := h.rewriteSpans _

end Keeps

end Sys2Proof.Machine
end

