-- ==== Sys2Proof/Laws/Quiet.lean ====
section
/-! SUPPORT. What the operations of the window manager, the span buffer and the tag pool never change: no stream record,
cadence, message queue, comparator or rule. -/

namespace Sys2Proof.Machine

open Sys2Proof

/-- `t` follows from `s` by operations on windows, spans and fetch records alone. -/
structure Quiet (s t : State) : Prop where
  streams   : t.streams = s.streams
  cadences  : t.cadences = s.cadences
  tx        : t.tx = s.tx
  rules     : t.rules = s.rules
  pressure  : t.pressure = s.pressure
  responder : t.responder = s.responder
  probes    : t.probes = s.probes
  choices   : t.choices = s.choices
  tables    : t.tables = s.tables
  now       : t.now = s.now
  array     : t.array = s.array
  floor     : t.floor = s.floor

namespace Quiet

variable {s t : State}

theorem refl (s : State) : Quiet s s := ⟨rfl, rfl, rfl, rfl, rfl, rfl, rfl, rfl, rfl, rfl, rfl, rfl⟩

theorem change {u : State} (h : Quiet s t) (e : Quiet t u) : Quiet s u :=
  ⟨e.streams.trans h.streams, e.cadences.trans h.cadences, e.tx.trans h.tx, e.rules.trans h.rules,
    e.pressure.trans h.pressure, e.responder.trans h.responder, e.probes.trans h.probes,
    e.choices.trans h.choices, e.tables.trans h.tables, e.now.trans h.now, e.array.trans h.array,
    e.floor.trans h.floor⟩

theorem stream (h : Quiet s t) (k : Handle) : t.stream k = s.stream k := by
  unfold State.stream; rw [h.streams]

theorem cadence (h : Quiet s t) (k : Handle) : t.cadence k = s.cadence k := by
  unfold State.cadence; rw [h.cadences]

theorem setWindow (h : Quiet s t) (k : Handle) (w : Window) : Quiet s (t.setWindow k w) := { h with }

theorem setCursor (h : Quiet s t) (k : Handle) (c : Option Nat) : Quiet s (t.setCursor k c) := { h with }

theorem mapSlot (h : Quiet s t) (k : Handle) (serial : Nat) (f : Slot → Slot) : Quiet s (t.mapSlot k serial f) :=
  { h with }

theorem removeSlot (h : Quiet s t) (k : Handle) (serial : Nat) : Quiet s (t.removeSlot k serial) := { h with }

theorem putSpan (h : Quiet s t) (i : Nat) (x : Span) : Quiet s (t.putSpan i x) := { h with }

theorem putFetch (h : Quiet s t) (i : Nat) (f : Fetch) : Quiet s (t.putFetch i f) := by
  unfold State.putFetch
  split
  · exact h.putSpan i _
  · exact h

theorem nextSequence (h : Quiet s t) : Quiet s t.nextSequence := { h with }

theorem allocate (h : Quiet s t) {k : Key} {refs : List Referrer} {i : Nat} {u : State}
    (e : t.allocate k refs = some (i, u)) : Quiet s u := by
  unfold State.allocate at e
  split at e
  · cases e
  · cases e
    exact { h with }

theorem nameSpan (h : Quiet s t) (k : Key) (span : Option Nat) (l : List Referrer) : Quiet s (t.nameSpan k span l) := by
  induction l generalizing t with
  | nil => exact h
  | cons r l ih => exact ih (h.mapSlot _ _ _)

theorem serveKeys (h : Quiet s t) (l : List WaitingKey) : Quiet s (t.serveKeys l) := by
  induction l generalizing t with
  | nil => exact { h with }
  | cons w l ih =>
    unfold State.serveKeys
    split
    · exact { h with }
    · rename_i e; exact ih ((h.allocate e).nameSpan _ _ _)

theorem serve (h : Quiet s t) : Quiet s t.serve := h.serveKeys _

theorem waitFor (h : Quiet s t) (k : Key) (refs : List Referrer) : Quiet s (t.waitFor k refs) := { h with }

theorem leaveKey (h : Quiet s t) (j : Handle) (serial : Nat) (k : Key) : Quiet s (t.leaveKey j serial k) := { h with }

theorem freeSpan (h : Quiet s t) (i : Nat) : Quiet s (t.freeSpan i) := by
  unfold State.freeSpan
  apply serve
  exact { h with }

theorem restSpan (h : Quiet s t) (i : Nat) : Quiet s (t.restSpan i) := by
  unfold State.restSpan
  apply serve
  exact { h with }

theorem settleUse (h : Quiet s t) (i : Nat) : Quiet s (t.settleUse i) := by
  unfold State.settleUse
  split
  · exact h
  · split
    · split
      · exact h.restSpan i
      · exact h
    · split
      · exact h.freeSpan i
      · exact h
    · split
      · split
        · exact h.freeSpan i
        · exact h.freeSpan i
        · exact h
      · exact h.putSpan i _

theorem attach (h : Quiet s t) (r : Referrer) (k : Key) : Quiet s (t.attach r k).1 := by
  unfold State.attach
  split
  · split
    · exact h
    · exact { h with }
  · split
    · exact { h with }
    · split
      · rename_i e; exact h.allocate e
      · exact h.waitFor k _

theorem detachSpan (h : Quiet s t) (j : Handle) (serial i : Nat) : Quiet s (t.detachSpan j serial i) := by
  unfold State.detachSpan
  split
  · exact h
  · split
    · exact (h.putSpan i _).settleUse i
    · exact h

theorem detachKey (h : Quiet s t) (j : Handle) (serial : Nat) (k : Key) : Quiet s (t.detachKey j serial k) := by
  unfold State.detachKey
  split
  · exact h.detachSpan j serial _
  · exact h.leaveKey j serial k

theorem detachKeys (h : Quiet s t) (j : Handle) (serial : Nat) (l : List Key) :
    Quiet s (t.detachKeys j serial l) := by
  induction l generalizing t with
  | nil => exact h
  | cons k l ih => exact ih (h.detachKey j serial k)

theorem mapEntry (h : Quiet s t) (j : Handle) (serial : Nat) (f : Referrer → Referrer) (e : PageEntry) :
    Quiet s (t.mapEntry j serial f e) := by
  unfold State.mapEntry
  split
  · split
    · exact h
    · exact h.putSpan _ _
  · exact { h with }

theorem mapEntries (h : Quiet s t) (j : Handle) (serial : Nat) (f : Referrer → Referrer) (l : List PageEntry) :
    Quiet s (t.mapEntries j serial f l) := by
  induction l generalizing t with
  | nil => exact h
  | cons e l ih => exact ih (h.mapEntry j serial f e)

theorem setDeadline (h : Quiet s t) (k : Handle) (serial d : Nat) : Quiet s (t.setDeadline k serial d) := by
  unfold State.setDeadline
  split
  · exact h
  · exact (h.mapSlot k serial _).mapEntries k serial _ _

theorem setDeadlines (h : Quiet s t) (k : Handle) (j : Nat) (l : List Nat) : Quiet s (t.setDeadlines k j l) := by
  induction l generalizing t j with
  | nil => exact h
  | cons x l ih => exact ih (h.setDeadline k x _) (j + 1)

theorem recomputeDeadlines (h : Quiet s t) (k : Handle) : Quiet s (t.recomputeDeadlines k) := h.setDeadlines k 0 _

theorem attachAll (h : Quiet s t) (r : Referrer) (l : List PageEntry) : Quiet s (t.attachAll r l).state := by
  induction l generalizing t with
  | nil => exact h
  | cons e l ih => exact ih (h.attach r e.key)

theorem createSlot (h : Quiet s t) (k : Handle) (f j : Nat) : Quiet s (t.createSlot k f j) :=
  (attachAll (t := { t with nextSlot := t.nextSlot + 1 }) { h with } _ _).setWindow k _

theorem detachSlot (h : Quiet s t) (k : Handle) (serial : Nat) : Quiet s (t.detachSlot k serial) := by
  unfold State.detachSlot
  split
  · exact h
  · exact (h.detachKeys k serial _).removeSlot k serial

theorem detachSlots (h : Quiet s t) (k : Handle) (l : List Nat) : Quiet s (t.detachSlots k l) := by
  induction l generalizing t with
  | nil => exact h
  | cons x l ih => exact ih (h.detachSlot k x)

theorem detachWindow (h : Quiet s t) (k : Handle) : Quiet s (t.detachWindow k) := h.detachSlots k _

theorem detachSending (h : Quiet s t) (k : Handle) : Quiet s (t.detachSending k) := h.detachSlots k _

theorem topUpPasses (h : Quiet s t) (k : Handle) (n : Nat) : Quiet s (t.topUpPasses k n) := by
  induction n generalizing t with
  | zero => exact h
  | succ n ih =>
    unfold State.topUpPasses
    split
    · exact h
    · split
      · exact ih ((h.createSlot k _ _).setCursor k _)
      · exact h

theorem topUp (h : Quiet s t) (k : Handle) : Quiet s (t.topUp k) := by
  unfold State.topUp
  split
  · exact h.topUpPasses k _
  · exact h

theorem build (h : Quiet s t) (k : Handle) : Quiet s (t.build k) := (h.setCursor k _).topUp k

theorem rebuild (h : Quiet s t) (k : Handle) : Quiet s (t.rebuild k) := by
  unfold State.rebuild
  split
  · exact (h.detachWindow k).build k
  · exact h

theorem fillPlaces (h : Quiet s t) (k : Handle) (j : Nat) (l : List Nat) : Quiet s (t.fillPlaces k j l) := by
  induction l generalizing t j with
  | nil => exact h
  | cons f l ih =>
    unfold State.fillPlaces
    split
    · exact ih h (j + 1)
    · exact ih (h.createSlot k f j) (j + 1)

theorem foldDeadlines (h : Quiet s t) (k : Handle) (l : List (Nat × Nat)) :
    Quiet s (l.foldl (fun s p => s.setDeadline k p.2 (s.slotDeadline k p.1)) t) := by
  induction l generalizing t with
  | nil => exact h
  | cons p l ih => exact ih (h.setDeadline k _ _)

theorem retarget (h : Quiet s t) (k : Handle) : Quiet s (t.retarget k) :=
  ((((h.detachSlots k _).setWindow k _).foldDeadlines k _).fillPlaces k 0 _).setCursor k _

theorem reduceWindow (h : Quiet s t) (k : Handle) : Quiet s (t.reduceWindow k) := by
  unfold State.reduceWindow
  dsimp only
  split
  · exact h
  · exact (h.detachSlots k _).setCursor k _

theorem fillSlots (h : Quiet s t) (mark : Bool) (l : List Referrer) : Quiet s (t.fillSlots mark l) := by
  induction l generalizing t with
  | nil => exact h
  | cons r l ih => exact ih (h.mapSlot _ _ _)

theorem failSlots (h : Quiet s t) (k : Key) (l : List Referrer) : Quiet s (t.failSlots k l) := by
  induction l generalizing t with
  | nil => exact h
  | cons r l ih => exact ih ((h.detachKeys _ _ _).mapSlot _ _ _)

theorem moveSlots (h : Quiet s t) (k : Key) (span : Option Nat) (l : List Referrer) :
    Quiet s (t.moveSlots k span l) := by
  induction l generalizing t with
  | nil => exact h
  | cons r l ih => exact ih (h.mapSlot _ _ _)

theorem staleSlots (h : Quiet s t) (l : List Referrer) : Quiet s (t.staleSlots l) := by
  induction l generalizing t with
  | nil => exact h
  | cons r l ih => exact ih (h.mapSlot _ _ _)

theorem count (h : Quiet s t) (f : FetchCounts → FetchCounts) : Quiet s (t.count f) := { h with }

theorem advanceTag (h : Quiet s t) (i : TagIndex) : Quiet s (t.advanceTag i) := { h with }

theorem mapFetch (h : Quiet s t) (i : Nat) (f : Fetch → Fetch) : Quiet s (t.mapFetch i f) := by
  unfold State.mapFetch
  split
  · exact h
  · exact h.putFetch i _

theorem release (h : Quiet s t) (i : Nat) : Quiet s (t.release i) := by
  unfold State.release
  split
  · exact h
  · rename_i f _
    have h1 := h.putFetch i { f with tag := none, received := 0, issueTime := none, expiry := none, waiting := false }
    dsimp only
    split
    · exact { h1 with }
    · exact { h1 with }

theorem releaseAll (h : Quiet s t) (l : List Nat) : Quiet s (t.releaseAll l) := by
  induction l generalizing t with
  | nil => exact h
  | cons i l ih => exact ih (h.release i)

theorem requeue (h : Quiet s t) (fresh : Bool) (i : Nat) : Quiet s (t.requeue fresh i) := by
  unfold State.requeue
  split
  · exact h
  · split
    · split
      · exact (h.mapFetch i _).nextSequence
      · exact h.mapFetch i _
    · exact h.freeSpan i

theorem requeueAll (h : Quiet s t) (l : List Nat) : Quiet s (t.requeueAll l) := by
  induction l generalizing t with
  | nil => exact h
  | cons i l ih => exact ih (h.requeue false i)

theorem setAnswer (h : Quiet s t) (a : LocalAnswer) : Quiet s (t.setAnswer a) := { h with }

theorem setPins (h : Quiet s t) (i : Nat) (f : Nat → Nat) : Quiet s (t.setPins i f) := by
  unfold State.setPins
  split
  · exact h
  · exact h.putSpan i _

theorem freeUnused (h : Quiet s t) (i : Nat) : Quiet s (t.freeUnused i) := by
  unfold State.freeUnused
  split
  · exact h
  · split
    · exact h.freeSpan i
    · exact h

theorem moveUsers (h : Quiet s t) (k : Key) (l : List Referrer) : Quiet s (t.moveUsers k l) := by
  unfold State.moveUsers
  split
  · exact h
  · split
    · rename_i e; exact (h.allocate e).moveSlots _ _ _
    · exact (h.waitFor k _).moveSlots _ _ _

theorem split (h : Quiet s t) (i : Nat) (x : Span) : Quiet s (t.split i x) :=
  (((h.putSpan i _).staleSlots _).moveUsers _ _).freeUnused i

theorem rewriteSpan (h : Quiet s t) (i : Nat) (k : Key) : Quiet s (t.rewriteSpan i k) := by
  unfold State.rewriteSpan
  split
  · exact h
  · split
    · split
      · exact h.putSpan i _
      · split
        · apply freeSpan
          exact { h with }
        · exact h.split i _
      · exact h
    · exact h

theorem rewriteSpans (h : Quiet s t) (l : List (Nat × Key)) : Quiet s (t.rewriteSpans l) := by
  induction l generalizing t with
  | nil => exact h
  | cons e l ih => exact ih (h.rewriteSpan _ _)

theorem rewrite (h : Quiet s t) (w : Rewrite) : Quiet s (t.rewrite w) := h.rewriteSpans _

end Quiet

end Sys2Proof.Machine
end

