-- ==== Sys2Proof/Laws/Settle.lean ====
section
/-! SUPPORT. What the end of every event leaves unchanged: the joins and the choices of the two transmitters move
messages and issue reads, and change no time, pin, table, byte of memory, link state, quiesce state or waiting command. -/

namespace Sys2Proof.Machine

open Sys2Proof

/-- `t` follows from `s` by joins and transmitter choices. -/
structure Steady (s t : State) : Prop where
  now      : t.now = s.now
  pins     : t.pins = s.pins
  straps   : t.straps = s.straps
  tables   : t.tables = s.tables
  memory   : t.buffer.memory = s.buffer.memory
  hold     : t.fetch.holdUntil = s.fetch.holdUntil
  pending  : t.pending = s.pending
  arrayUp  : t.array.linkUp = s.array.linkUp
  floorUp  : t.floor.linkUp = s.floor.linkUp
  quiesce  : t.array.quiesce = s.array.quiesce
  onArray  : t.array.onLink = s.array.onLink
  onFloor  : t.floor.onLink = s.floor.onLink
  control  : s.tx.control.length ≤ Config.controlQueue → t.tx.control.length ≤ Config.controlQueue
  notices  : s.responder.notices.length ≤ Config.noticeQueue → t.responder.notices.length ≤ Config.noticeQueue
  transmit : s.array.control.length ≤ Config.arrayQueue → t.array.control.length ≤ Config.arrayQueue
  toFloor  : s.array.toFloor.length ≤ Config.forwardQueue → t.array.toFloor.length ≤ Config.forwardQueue
  toArray  : s.floor.toArray.length ≤ Config.forwardQueue → t.floor.toArray.length ≤ Config.forwardQueue
  oneMn    : s.OneNotice → t.OneNotice
  counted  : s.Counted → t.Counted
  segment  : s.SegmentOk → t.SegmentOk

theorem Steady.refl (s : State) : Steady s s :=
  ⟨rfl, rfl, rfl, rfl, rfl, rfl, rfl, rfl, rfl, rfl, rfl, rfl, id, id, id, id, id, id, id, id⟩

theorem Steady.trans {s t u : State} (h : Steady s t) (e : Steady t u) : Steady s u :=
  ⟨e.now.trans h.now, e.pins.trans h.pins, e.straps.trans h.straps, e.tables.trans h.tables,
    e.memory.trans h.memory, e.hold.trans h.hold, e.pending.trans h.pending, e.arrayUp.trans h.arrayUp,
    e.floorUp.trans h.floorUp, e.quiesce.trans h.quiesce, e.onArray.trans h.onArray, e.onFloor.trans h.onFloor,
    fun x => e.control (h.control x), fun x => e.notices (h.notices x), fun x => e.transmit (h.transmit x),
    fun x => e.toFloor (h.toFloor x), fun x => e.toArray (h.toArray x), fun x => e.oneMn (h.oneMn x),
    fun x => e.counted (h.counted x), fun x => e.segment (h.segment x)⟩

/-- An operation below the ports is steady. -/
theorem Keeps.steady {s t : State} (h : Keeps s t) : Steady s t := by
  have ha := h.array
  have hf := h.floor
  refine ⟨h.now, h.pins, h.straps, h.tables, h.memory, h.hold, h.pending, ?_, ?_, ?_, ?_, ?_, h.control, h.notices,
    ?_, ?_, ?_, ?_, h.counted, h.segment⟩
  · rw [ha]
  · rw [hf]
  · rw [ha]
  · rw [ha]
  · rw [hf]
  · rw [ha]; exact id
  · rw [ha]; exact id
  · rw [hf]; exact id
  · unfold State.OneNotice State.noticesQueued; rw [ha]; exact id

/-- A message that is no MN joins the array transmit queue, which has room. -/
theorem Steady.pushArray {s t : State} (h : Steady s t) (m : ArrayControl) (hm : m.isNotice = false)
    (room : t.arrayRoom = true) : Steady s (t.pushArray m) :=
  { h with
    transmit := fun _ => by
      have : t.array.control.length < Config.arrayQueue := of_decide_eq_true room
      simp; omega
    oneMn := fun x => by
      have := h.oneMn x
      unfold State.OneNotice State.noticesQueued at *
      simpa [List.filter_append, hm] using this }

theorem Steady.joinGrant (s : State) : Steady s s.joinGrant := by
  unfold State.joinGrant
  split
  · split
    · rename_i room
      exact Steady.pushArray (t := { s with array := { s.array with grantWaiting := none } })
        { Steady.refl s with } _ rfl room
    · exact Steady.refl s
  · exact Steady.refl s

theorem Steady.joinAnswer (s : State) : Steady s s.joinAnswer := by
  unfold State.joinAnswer
  split
  · split
    · rename_i room
      exact Steady.pushArray (t := { s with responder := { s.responder with waiting := none } })
        { Steady.refl s with } _ rfl room
    · exact Steady.refl s
  · exact Steady.refl s

theorem Steady.handOver (s : State) : Steady s s.handOver := by
  unfold State.handOver
  split
  · exact Steady.refl s
  · rename_i n t hn
    split
    · rename_i c
      simp only [Bool.and_eq_true, Bool.not_eq_true'] at c
      have room : s.array.control.length < Config.arrayQueue := of_decide_eq_true c.1.2
      exact { Steady.refl s with
        notices := fun x => by
          rw [hn] at x; simp at *; omega
        transmit := fun _ => by simp; omega
        oneMn := fun _ => by
          unfold State.OneNotice State.noticesQueued
          have none : s.array.control.filter ArrayControl.isNotice = [] := by
            rw [List.filter_eq_nil_iff]
            intro m hm hx
            have := List.any_eq_false.1 c.2 m hm
            exact this hx
          simp [List.filter_append, none]
          exact List.length_filter_le _ [_] }
    · exact Steady.refl s

theorem Steady.joins (s : State) : Steady s s.joins :=
  ((Steady.joinGrant s).trans (Steady.joinAnswer _)).trans (Steady.handOver _)

theorem Steady.startArray {s t : State} (h : Steady s t) (m : ArrayMessage) (turn : ArrayTurn) :
    Steady s (t.startArray m turn) := { h with }

theorem Steady.startForwarded {s u : State} {turn : ArrayTurn} (e : s.startForwarded turn = some u) :
    Steady s u := by
  unfold State.startForwarded at e
  split at e
  · cases e
  · rename_i f t hf
    cases e
    exact { Steady.refl s with
      toArray := fun x => by rw [hf] at x; simp [State.startArray] at *; omega }

theorem Steady.startOwn {s u : State} {turn : ArrayTurn} (e : s.startOwn turn = some u) : Steady s u := by
  unfold State.startOwn at e
  split at e
  · split at e
    · cases e
    · rename_i br v hv
      cases e
      exact ((Keeps.refl s).fetchTurn hv).steady.startArray _ _
  · cases e

theorem Steady.startRead {s u : State} (e : s.startRead = some u) : Steady s u := by
  unfold State.startRead at e
  split at e
  · rcases Option.or_eq_some_iff.1 e with e | ⟨_, e⟩
    · exact Steady.startOwn e
    · exact Steady.startForwarded e
  · rcases Option.or_eq_some_iff.1 e with e | ⟨_, e⟩
    · exact Steady.startForwarded e
    · exact Steady.startOwn e

theorem Steady.arrayChoose (s : State) : Steady s s.arrayChoose := by
  unfold State.arrayChoose
  split
  · split
    · rename_i m t hm
      exact { Steady.refl s with
        transmit := fun x => by rw [hm] at x; simp [State.startArray] at *; omega
        oneMn := fun x => by
          unfold State.OneNotice State.noticesQueued at *
          rw [hm] at x
          refine Nat.le_trans ?_ x
          simp only [State.startArray, List.filter_cons]
          split
          · simp
          · exact Nat.le_refl _ }
    · cases e : s.startRead with
      | none => exact Steady.refl s
      | some u => exact Steady.startRead e
  · exact Steady.refl s

theorem Steady.startFrameData {s u : State} {turn : FloorTurn} (e : s.startFrameData turn = some u) : Steady s u := by
  unfold State.startFrameData at e
  split at e
  · split at e
    · cases e; exact { Steady.refl s with segment := fun _ => Or.inr rfl }
    · cases e
  · split at e
    · cases e
    · cases e; exact { Steady.refl s with segment := fun _ => Or.inr rfl }

theorem Steady.startBlockData {s u : State} {turn : FloorTurn} (e : s.startBlockData turn = some u) : Steady s u := by
  unfold State.startBlockData at e
  split at e
  · cases e
  · split at e
    · cases e
    · rename_i f t hf
      cases e
      exact { Steady.refl s with
        toFloor := fun x => by rw [hf] at x; simp at *; omega
        segment := fun _ => trivial }
  · split at e
    · cases e
    · split at e
      · cases e
      · cases e; exact { Steady.refl s with segment := fun _ => trivial }

theorem Steady.startData {s u : State} (e : s.startData = some u) : Steady s u := by
  unfold State.startData at e
  split at e
  · rcases Option.or_eq_some_iff.1 e with e | ⟨_, e⟩
    · exact Steady.startFrameData e
    · exact Steady.startBlockData e
  · rcases Option.or_eq_some_iff.1 e with e | ⟨_, e⟩
    · exact Steady.startBlockData e
    · exact Steady.startFrameData e

theorem Steady.floorChoose (s : State) : Steady s s.floorChoose := by
  unfold State.floorChoose
  split
  · split
    · rename_i m t hm
      exact { Steady.refl s with
        control := fun x => by rw [hm] at x; simp at *; omega
        segment := fun _ => trivial }
    · cases e : s.startData with
      | none => exact Steady.refl s
      | some u => exact Steady.startData e
  · exact Steady.refl s

/-- What settling an event leaves unchanged. -/
theorem Steady.settle (s : State) : Steady s s.settle :=
  (((Steady.joins s).trans (Steady.arrayChoose _)).trans (Steady.joins _)).trans (Steady.floorChoose _)

/-! ## The floor port at the end of an event -/

theorem State.joins_tx (s : State) : s.joins.tx = s.tx := by
  unfold State.joins State.handOver State.joinAnswer State.joinGrant
  repeat' split
  all_goals rfl

theorem State.joins_floor (s : State) : s.joins.floor = s.floor := by
  unfold State.joins State.handOver State.joinAnswer State.joinGrant
  repeat' split
  all_goals rfl

/-- The array port's choice starts no message on the floor port and takes none from its control queue, which can grow at
its end. -/
structure LeavesFloor (s t : State) : Prop where
  up      : t.floor.linkUp = s.floor.linkUp
  holds   : t.floor.partnerHolds = s.floor.partnerHolds
  control : s.tx.control <+: t.tx.control
  sending : s.tx.sending = none → t.tx.sending = none

theorem LeavesFloor.refl (s : State) : LeavesFloor s s := ⟨rfl, rfl, List.prefix_rfl, id⟩

theorem LeavesFloor.startForwarded {s u : State} {turn : ArrayTurn} (e : s.startForwarded turn = some u) :
    LeavesFloor s u := by
  unfold State.startForwarded at e
  split at e
  · cases e
  · cases e; exact ⟨rfl, rfl, List.prefix_rfl, id⟩

theorem LeavesFloor.startOwn {s u : State} {turn : ArrayTurn} (e : s.startOwn turn = some u) : LeavesFloor s u := by
  unfold State.startOwn at e
  split at e
  · split at e
    · cases e
    · rename_i br v hv
      cases e
      have h := (Keeps.refl s).fetchTurn hv
      exact ⟨congrArg FloorPort.linkUp h.floor, congrArg FloorPort.partnerHolds h.floor, h.placed, h.silent⟩
  · cases e

theorem State.arrayChoose_leavesFloor (s : State) : LeavesFloor s s.arrayChoose := by
  unfold State.arrayChoose
  split
  · split
    · exact ⟨rfl, rfl, List.prefix_rfl, id⟩
    · cases e : s.startRead with
      | none => exact LeavesFloor.refl s
      | some u =>
        unfold State.startRead at e
        split at e <;> rcases Option.or_eq_some_iff.1 e with e | ⟨_, e⟩
        · exact LeavesFloor.startOwn e
        · exact LeavesFloor.startForwarded e
        · exact LeavesFloor.startForwarded e
        · exact LeavesFloor.startOwn e
  · exact LeavesFloor.refl s

/-- A free floor transmitter starts the front control message in the event itself. -/
theorem State.settle_startsControl {s : State} {m : FloorControl} {rest : List FloorControl}
    (free : s.floorFree = true) (front : s.tx.control = m :: rest) :
    s.settle.tx.sending = some (.control m) ∧ rest <+: s.settle.tx.control := by
  have h := s.joins.arrayChoose_leavesFloor
  have tx := s.joins.arrayChoose.joins_tx
  have fl := s.joins.arrayChoose.joins_floor
  unfold State.settle
  set u := s.joins.arrayChoose.joins
  have free' : u.floorFree = true := by
    unfold State.floorFree at *
    rw [fl, tx, h.up, h.holds, State.joins_floor]
    simp only [Bool.and_eq_true, Option.isNone_iff_eq_none] at *
    exact ⟨free.1, h.sending (by rw [State.joins_tx]; exact free.2)⟩
  obtain ⟨l, e⟩ := h.control
  rw [State.joins_tx, front] at e
  have e' : u.tx.control = m :: (rest ++ l) := by rw [tx, ← e]; rfl
  unfold State.floorChoose
  rw [if_pos free', e']
  exact ⟨rfl, List.prefix_append ..⟩

end Sys2Proof.Machine
end

