-- ==== Sys2Proof/Laws/Arrive.lean ====
section
/-! SUPPORT. What a port does with an arriving message, said once: nothing on a DOWN link, a wait on a held link, a discard
of a refused message, and otherwise the message's effect and the choices that end the event. -/

namespace Sys2Proof.Machine

open Sys2Proof

variable (s : State)

@[simp] theorem State.linkUp_stamp (t : Nat) (p : Port) : (s.stamp t).linkUp p = s.linkUp p := by cases p <;> rfl
@[simp] theorem State.waits_stamp (t : Nat) (p : Port) : (s.stamp t).waits p = s.waits p := by cases p <;> rfl
@[simp] theorem State.sourceOk_stamp (t : Nat) (p : Port) (n : Half) : (s.stamp t).sourceOk p n = s.sourceOk p n := by
  cases p <;> rfl
@[simp] theorem State.headerOk_stamp (t : Nat) (p : Port) (f : Frame) : (s.stamp t).headerOk p f = s.headerOk p f := by
  cases p <;> rfl

variable {s} {p : Port} {c : Instr} {t : Nat} {src : Half} {f : Frame} {effect : State → State}

/-- A message that a port takes has its effect, and the event settles. -/
theorem State.arrive_taken (h : s.Taking p src) : s.arrive p c t src effect = (effect (s.stamp t)).settle := by
  obtain ⟨h1, h2, h3⟩ := h
  simp [State.arrive, h1, h2, h3]

theorem State.arrive_down (h : s.linkUp p = false) : s.arrive p c t src effect = s.stamp t := by
  simp [State.arrive, h]

theorem State.arrive_held (h : s.linkUp p = true) (h2 : s.waits p = true) :
    s.arrive p c t src effect = (s.stamp t).waitOnLink p c := by
  simp [State.arrive, h, h2]

theorem State.arrive_refused (h : s.linkUp p = true) (h2 : s.waits p = false) (h3 : s.sourceOk p src = false) :
    s.arrive p c t src effect = s.stamp t := by
  simp [State.arrive, h, h2, h3]

/-- A frame that a port takes has its effect, and the event settles. -/
theorem State.arriveFrame_taken (h : s.TakingFrame p f) :
    s.arriveFrame p c t f effect = (effect (s.stamp t)).settle := by
  obtain ⟨h1, h2, h3⟩ := h
  simp [State.arriveFrame, h1, h2, h3]

theorem State.arriveFrame_down (h : s.linkUp p = false) : s.arriveFrame p c t f effect = s.stamp t := by
  simp [State.arriveFrame, h]

theorem State.arriveFrame_held (h : s.linkUp p = true) (h2 : s.waits p = true) :
    s.arriveFrame p c t f effect = (s.stamp t).waitOnLink p c := by
  simp [State.arriveFrame, h, h2]

theorem State.arriveFrame_refused (h : s.linkUp p = true) (h2 : s.waits p = false) (h3 : s.headerOk p f = false) :
    s.arriveFrame p c t f effect = s.stamp t := by
  simp [State.arriveFrame, h, h2, h3]

/-- A request long enough to be read. -/
theorem State.readable_of_le {a : Arrival} (h : 8 ≤ a.len) : s.readable a effect = effect s := by
  have : ¬ a.len < 8 := by omega
  simp [State.readable, this]

theorem State.readableManage_of_le {a : Arrival} (h : 8 ≤ a.len) : s.readableManage a effect = effect s := by
  have : ¬ a.len < 8 := by omega
  simp [State.readableManage, this]

/-- The handle that a handle byte names. -/
theorem handleOf_of_names {b : Byte} {h : Handle} (e : Names b h) : handleOf b = some h := by
  have hb : b.toNat < 128 := by rw [e]; exact h.2
  simp only [handleOf, hb, dif_pos]
  exact congrArg some (Fin.ext e)

theorem handleOf_of_large {b : Byte} (e : 127 < b.toNat) : handleOf b = none := by
  have hb : ¬ b.toNat < 128 := by omega
  simp [handleOf, hb]

end Sys2Proof.Machine
end

