-- ==== Sys2Proof/Laws/Fills.lean ====
section
/-! SUPPORT. Span records, fetch records and samples, said once: what a table holds after a change, what the release of a
record whose fields are known leaves, and what a sample does while no rule is ARMED. -/

namespace Sys2Proof.Machine

open Sys2Proof

/-! ## Tables keyed by a number -/

section Keyed

variable {α : Type} (t : List (Nat × α)) (k j : Nat) (v w : α)

@[simp] theorem Keyed.get_put_self : Keyed.get (Keyed.put t k v) k = some v := by
  induction t with
  | nil => simp [Keyed.get, Keyed.put]
  | cons e r ih =>
    by_cases h : k < e.1
    · simp [Keyed.get, Keyed.put, h]
    · by_cases h2 : k = e.1
      · simp [Keyed.get, Keyed.put, h2]
      · have : (e.1 == k) = false := by simp; omega
        simp only [Keyed.get, Keyed.put, h, h2, if_false, List.find?_cons, this] at ih ⊢
        exact ih

variable {k j} in
theorem Keyed.get_put_of_ne (h : j ≠ k) : Keyed.get (Keyed.put t k v) j = Keyed.get t j := by
  have hk : (k == j) = false := by simp; omega
  induction t with
  | nil => simp [Keyed.get, Keyed.put, hk]
  | cons e r ih =>
    by_cases h1 : k < e.1
    · simp [Keyed.get, Keyed.put, h1, hk]
    · by_cases h2 : k = e.1
      · have : (e.1 == j) = false := by rw [← h2]; exact hk
        simp [Keyed.get, Keyed.put, ← h2, hk]
      · cases h3 : (e.1 == j) with
        | true => simp [Keyed.get, Keyed.put, h1, h2, h3]
        | false =>
          simp only [Keyed.get, Keyed.put, h1, h2, if_false, List.find?_cons, h3] at ih ⊢
          exact ih

@[simp] theorem Keyed.get_drop_self : Keyed.get (Keyed.drop t k) k = none := by
  have : (t.filter (fun e => e.1 != k)).find? (fun e => e.1 == k) = none := by
    rw [List.find?_eq_none]; intro x hx; simp at hx; simp [hx.2]
  simp [Keyed.get, Keyed.drop, this]

variable {k j} in
theorem Keyed.get_drop_of_ne (h : j ≠ k) : Keyed.get (Keyed.drop t k) j = Keyed.get t j := by
  have : (fun e : Nat × α => decide ((e.1 != k) = true ∧ (e.1 == j) = true)) = (fun e => e.1 == j) := by
    funext e
    by_cases he : e.1 = j
    · simp [he, h]
    · simp [he]
  unfold Keyed.get Keyed.drop
  rw [List.find?_filter, this]

@[simp] theorem Keyed.put_put : Keyed.put (Keyed.put t k v) k w = Keyed.put t k w := by
  induction t with
  | nil => simp [Keyed.put]
  | cons e r ih =>
    by_cases h : k < e.1
    · simp [Keyed.put, h]
    · by_cases h2 : k = e.1
      · simp [Keyed.put, h2]
      · simp [Keyed.put, h, h2, ih]

@[simp] theorem Keyed.drop_put : Keyed.drop (Keyed.put t k v) k = Keyed.drop t k := by
  induction t with
  | nil => simp [Keyed.put, Keyed.drop]
  | cons e r ih =>
    by_cases h : k < e.1
    · simp [Keyed.put, h, Keyed.drop]
    · by_cases h2 : k = e.1
      · simp [Keyed.put, h2, Keyed.drop]
      · unfold Keyed.drop at ih
        simp [Keyed.put, h, h2, Keyed.drop, List.filter_cons, ih]

end Keyed

/-! ## Span records -/

variable {s : State} {i : Nat} {x : Span} {f : Fetch}

@[simp] theorem SpanBuffer.span_put (b : SpanBuffer) (i : Nat) (x : Span) : (b.put i x).span i = some x :=
  Keyed.get_put_self _ _ _

@[simp] theorem State.span_putSpan (s : State) (i : Nat) (x : Span) : (s.putSpan i x).buffer.span i = some x :=
  Keyed.get_put_self _ _ _

@[simp] theorem State.putSpan_putSpan (s : State) (i : Nat) (x y : Span) :
    (s.putSpan i x).putSpan i y = s.putSpan i y := by
  simp [State.putSpan, SpanBuffer.put]

theorem Span.fetch_eq_some_iff : x.fetch = some f ↔ x.state = .filling f := by
  unfold Span.fetch; split <;> simp_all

theorem SpanBuffer.fetch_of_filling {b : SpanBuffer} (h : b.span i = some x) (hf : x.state = .filling f) :
    b.fetch i = some f := by
  unfold SpanBuffer.fetch; rw [h]; exact Span.fetch_eq_some_iff.2 hf

/-- Taking a span changes the record of no other span. -/
theorem SpanBuffer.span_of_take {b c : SpanBuffer} {j : Nat} (h : b.take = some (j, c)) (ne : i ≠ j) :
    c.span i = b.span i := by
  unfold SpanBuffer.take at h
  split at h
  · cases h; rfl
  · split at h
    · cases h; rfl
    · split at h
      · cases h; exact Keyed.get_drop_of_ne _ ne
      · cases h

/-- With no key waiting, serving the allocation queue changes nothing. -/
theorem State.serve_of_nil (h : s.buffer.waiting = []) : s.serve = s := by
  unfold State.serve; rw [h]
  unfold State.serveKeys; rw [← h]

/-! ## Fetch records whose fields are known -/

theorem State.mapFetch_known (h : s.buffer.span i = some x) (hf : x.state = .filling f) (g : Fetch → Fetch) :
    s.mapFetch i g = s.putSpan i { x with state := .filling (g f) } := by
  unfold State.mapFetch
  rw [SpanBuffer.fetch_of_filling h hf]
  unfold State.putFetch
  simp only [h]

/-- The release of a record that holds a tag: its attempt is forgotten and the tag's generation advances. -/
theorem State.release_known {tag : TagIndex} (h : s.buffer.span i = some x) (hf : x.state = .filling f)
    (ht : f.tag = some tag) :
    s.release i = State.putSpan { s with fetch := { s.fetch with
        generations := s.fetch.generations.set tag.1 (s.fetch.generations[tag] + 1) tag.2
        continuations := s.fetch.continuations.filter (fun j => j != i) } } i
      { x with state := .filling { f with tag := none, received := 0, issueTime := none, expiry := none,
                                          waiting := false } } := by
  unfold State.release
  rw [SpanBuffer.fetch_of_filling h hf]
  dsimp only
  unfold State.putFetch
  rw [h, ht]
  rfl

/-! ## Samples while no rule is ARMED -/

theorem State.evaluate_of_noneArmed (h : s.NoneArmed) (l : List RuleNumber) : s.evaluate l = s := by
  induction l with
  | nil => rfl
  | cons r t ih =>
    unfold State.evaluate
    rw [if_neg (fun x => h r x.1)]; exact ih

theorem State.transition_of_noneArmed (h : s.NoneArmed) (src : Source) : s.transition src = s :=
  State.evaluate_of_noneArmed h _

theorem State.transitionAll_of_noneArmed (h : s.NoneArmed) (l : List Source) : s.transitionAll l = s := by
  induction l with
  | nil => rfl
  | cons r t ih => unfold State.transitionAll; rw [State.transition_of_noneArmed h]; exact ih

/-- A sample of TAGS moves the comparator and nothing else. -/
theorem State.sampleTags_of_noneArmed (h : s.NoneArmed) : s.sampleTags = { s with pressure := { s.pressure with
    tags := s.pressure.tags.sample s.tables.active.shed.tags s.issuedCount } } := by
  unfold State.sampleTags State.transitions
  dsimp only
  rw [if_pos]
  · refine State.transitionAll_of_noneArmed ?_ _; exact h
  · split <;> simp

theorem State.transitions_of_noneArmed (h : s.NoneArmed) (l : List Source) :
    ∃ n : Nat, s.transitions l = { s with choices := n } := by
  unfold State.transitions
  split
  · exact ⟨s.choices, State.transitionAll_of_noneArmed h _⟩
  · refine ⟨s.choices + 1, State.transitionAll_of_noneArmed ?_ _⟩; exact h

/-- The samples of a page completion move the comparators, and may count a free order of their transitions. -/
theorem State.sampleCompletion_of_noneArmed (h : s.NoneArmed) (v : Nat) : ∃ n : Nat, s.sampleCompletion v =
    { s with choices := n
             pressure := { lat1 := s.pressure.lat1.sample s.tables.active.shed.lat1 v
                           lat2 := s.pressure.lat2.sample s.tables.active.shed.lat2 v
                           tags := s.pressure.tags.sample s.tables.active.shed.tags s.issuedCount } } := by
  unfold State.sampleCompletion
  refine State.transitions_of_noneArmed ?_ _; exact h

/-! ## The front of the fetch queue (R101) -/

/-- A QUEUED record stands before another, or level with it. -/
def Fetch.leads (f g : Fetch) : Prop :=
  f.deadline < g.deadline ∨ f.deadline = g.deadline ∧ f.sequence.toNat ≤ g.sequence.toNat

theorem Fetch.leads_trans {a b c : Fetch} (h : a.leads b) (k : b.leads c) : a.leads c := by
  unfold Fetch.leads at *; omega

theorem Fetch.leads_of_before {a b : Fetch} (h : a.before b = true) : a.leads b := by
  unfold Fetch.before at h; simp at h; unfold Fetch.leads; omega

theorem Fetch.leads_of_not_before {a b : Fetch} (h : ¬ a.before b = true) : b.leads a := by
  unfold Fetch.before at h; simp at h; unfold Fetch.leads; omega

theorem queueFront_some_isSome (l : List (Nat × Span)) : ∀ b : Nat × Fetch, (queueFront (some b) l).isSome = true := by
  induction l with
  | nil => intro b; rfl
  | cons e t ih =>
    intro b
    unfold queueFront
    split
    · exact ih b
    · split
      · exact ih _
      · exact ih b

/-- The search from a record given so far finds a record that leads it and every QUEUED one of the list. -/
theorem queueFront_from (l : List (Nat × Span)) : ∀ b r : Nat × Fetch, queueFront (some b) l = some r →
    r.2.leads b.2 ∧ (∀ e ∈ l, ∀ g, e.2.fetch = some g → g.state = .queued → r.2.leads g)
      ∧ (r = b ∨ ∃ e ∈ l, e.1 = r.1 ∧ e.2.fetch = some r.2 ∧ r.2.state = .queued) := by
  induction l with
  | nil => intro b r h; cases h; exact ⟨Or.inr ⟨rfl, Nat.le_refl _⟩, fun e he => (by cases he), Or.inl rfl⟩
  | cons e t ih =>
    intro b r h
    have skip : queueFront (some b) t = some r → (∀ g, e.2.fetch = some g → g.state ≠ .queued) →
        r.2.leads b.2 ∧ (∀ y ∈ e :: t, ∀ g, y.2.fetch = some g → g.state = .queued → r.2.leads g)
          ∧ (r = b ∨ ∃ y ∈ e :: t, y.1 = r.1 ∧ y.2.fetch = some r.2 ∧ r.2.state = .queued) := by
      intro h hn
      obtain ⟨h1, h2, h3⟩ := ih b r h
      refine ⟨h1, fun y hy g hg gq => ?_, h3.imp id (fun ⟨y, hy, q⟩ => ⟨y, List.mem_cons_of_mem _ hy, q⟩)⟩
      rcases List.mem_cons.1 hy with rfl | hy
      · exact absurd gq (hn g hg)
      · exact h2 y hy g hg gq
    unfold queueFront at h
    split at h
    · rename_i hn
      exact skip h (fun g hg => by rw [hn] at hg; cases hg)
    · rename_i f hf
      split at h
      · rename_i hq
        obtain ⟨h1, h2, h3⟩ := ih _ r h
        have hle : r.2.leads b.2 ∧ r.2.leads f := by
          by_cases c : f.before b.2 = true
          · rw [if_pos c] at h1; exact ⟨Fetch.leads_trans h1 (Fetch.leads_of_before c), h1⟩
          · rw [if_neg c] at h1; exact ⟨h1, Fetch.leads_trans h1 (Fetch.leads_of_not_before c)⟩
        refine ⟨hle.1, fun y hy g hg gq => ?_, ?_⟩
        · rcases List.mem_cons.1 hy with rfl | hy
          · rw [hf] at hg; cases hg; exact hle.2
          · exact h2 y hy g hg gq
        · rcases h3 with h3 | ⟨y, hy, q⟩
          · by_cases c : f.before b.2 = true
            · rw [if_pos c] at h3; subst h3; exact Or.inr ⟨e, List.mem_cons_self .., rfl, hf, hq⟩
            · rw [if_neg c] at h3; exact Or.inl h3
          · exact Or.inr ⟨y, List.mem_cons_of_mem _ hy, q⟩
      · rename_i hq
        exact skip h (fun g hg => by rw [hf] at hg; cases hg; exact hq)

/-- The front of the fetch queue is a QUEUED record of the list that leads every other. -/
theorem queueFront_spec {l : List (Nat × Span)} {r : Nat × Fetch} (h : queueFront none l = some r) :
    (∀ e ∈ l, ∀ g, e.2.fetch = some g → g.state = .queued → r.2.leads g)
      ∧ ∃ e ∈ l, e.1 = r.1 ∧ e.2.fetch = some r.2 ∧ r.2.state = .queued := by
  induction l with
  | nil => cases h
  | cons e t ih =>
    have skip : queueFront none t = some r → (∀ g, e.2.fetch = some g → g.state ≠ .queued) →
        (∀ y ∈ e :: t, ∀ g, y.2.fetch = some g → g.state = .queued → r.2.leads g)
          ∧ ∃ y ∈ e :: t, y.1 = r.1 ∧ y.2.fetch = some r.2 ∧ r.2.state = .queued := by
      intro h hn
      obtain ⟨h2, y, hy, q⟩ := ih h
      refine ⟨fun z hz g hg gq => ?_, y, List.mem_cons_of_mem _ hy, q⟩
      rcases List.mem_cons.1 hz with rfl | hz
      · exact absurd gq (hn g hg)
      · exact h2 z hz g hg gq
    unfold queueFront at h
    split at h
    · rename_i hn
      exact skip h (fun g hg => by rw [hn] at hg; cases hg)
    · rename_i f hf
      split at h
      · rename_i hq
        obtain ⟨h1, h2, h3⟩ := queueFront_from t _ r h
        refine ⟨fun z hz g hg gq => ?_, ?_⟩
        · rcases List.mem_cons.1 hz with rfl | hz
          · rw [hf] at hg; cases hg; exact h1
          · exact h2 z hz g hg gq
        · rcases h3 with rfl | ⟨y, hy, q⟩
          · exact ⟨e, List.mem_cons_self .., rfl, hf, hq⟩
          · exact ⟨y, List.mem_cons_of_mem _ hy, q⟩
      · rename_i hq
        exact skip h (fun g hg => by rw [hf] at hg; cases hg; exact hq)

/-- A fetch queue without a front holds no QUEUED record. -/
theorem queueFront_eq_none {l : List (Nat × Span)} (h : queueFront none l = none) :
    ∀ e ∈ l, ∀ g, e.2.fetch = some g → g.state ≠ .queued := by
  induction l with
  | nil => intro e he; cases he
  | cons e t ih =>
    intro y hy g hg
    unfold queueFront at h
    split at h
    · rename_i hn
      rcases List.mem_cons.1 hy with rfl | hy
      · rw [hn] at hg; cases hg
      · exact ih h y hy g hg
    · rename_i f hf
      split at h
      · have := queueFront_some_isSome t (e.1, f)
        rw [show queueFront (some (e.1, f)) t = none from h] at this; cases this
      · rename_i hq
        rcases List.mem_cons.1 hy with rfl | hy
        · rw [hf] at hg; cases hg; exact hq
        · exact ih h y hy g hg

end Sys2Proof.Machine
end

