-- ==== Sys2Proof/Laws/Slots.lean ====
section
/-! SUPPORT. Windows, said once: which slots an operation over a referrer list changes and how, what a detach takes out of
a window, and the binding and reservation of a stream. -/

namespace Sys2Proof.Machine

open Sys2Proof

variable {s t u : State}

/-! ## Operations that map the slots of every stream -/

/-- `t` is `s` but for its windows, where every slot of stream `h` has been mapped by `g h`. -/
structure MapsSlots (s t : State) (g : Handle → Slot → Slot) : Prop where
  rest   : t = { s with windows := t.windows }
  window : ∀ h : Handle, t.window h =
    { slots := (s.window h).slots.map (g h), sending := (s.window h).sending.map (g h), cursor := (s.window h).cursor }

/-- A list of referrers names a slot of a stream. -/
abbrev NamesSlot (l : List Referrer) (h : Handle) (z : Slot) : Prop := ∃ r ∈ l, r.handle = h ∧ r.slot = z.serial

namespace MapsSlots

variable {g k : Handle → Slot → Slot}

theorem refl (s : State) : MapsSlots s s (fun _ z => z) := ⟨rfl, fun h => by simp⟩

theorem trans (a : MapsSlots s t g) (b : MapsSlots t u k) : MapsSlots s u (fun h z => k h (g h z)) := by
  refine ⟨?_, fun h => ?_⟩
  · have := b.rest; rw [a.rest] at this; exact this
  · rw [b.window h, a.window h]; simp [Function.comp_def]

theorem congr (a : MapsSlots s t g) (e : ∀ h z, g h z = k h z) : MapsSlots s t k := by
  have : g = k := by funext h z; exact e h z
  exact this ▸ a

theorem buffer (a : MapsSlots s t g) : t.buffer = s.buffer := by rw [a.rest]

/-- The same map of the same windows leaves the same windows. -/
theorem swap {s' t' : State} (a : MapsSlots s t g) (b : MapsSlots s' t' g) (e : s'.windows = s.windows) :
    t' = { s' with windows := t.windows } := by
  have : t'.windows = t.windows := by
    apply Vector.ext
    intro n hn
    have h1 := a.window ⟨n, hn⟩
    have h2 := b.window ⟨n, hn⟩
    have hw : s'.window ⟨n, hn⟩ = s.window ⟨n, hn⟩ := by unfold State.window; rw [e]
    rw [hw, ← h1] at h2
    exact h2
  rw [← this]; exact b.rest

end MapsSlots

theorem State.mapSlot_mapsSlots (s : State) (h : Handle) (n : Nat) (f : Slot → Slot) :
    MapsSlots s (s.mapSlot h n f) (fun k z => if k = h ∧ z.serial = n then f z else z) := by
  refine ⟨rfl, fun k => ?_⟩
  unfold State.mapSlot
  by_cases e : k = h
  · subst e; rw [State.window_setWindow]; simp [Window.mapSlot]
  · rw [State.window_setWindow_of_ne _ (Ne.symm e)]; simp [e]

/-- An operation that maps the slots of a referrer list one by one, by a map that acts once, maps each
slot that the list names once. -/
theorem mapsSlots_of_each {P : State → Prop} (op : State → List Referrer → State) (f : Slot → Slot)
    (once : ∀ z, f (f z) = f z) (keeps : ∀ s t g, MapsSlots s t g → P s → P t)
    (nil : ∀ s, op s [] = s)
    (cons : ∀ s r l, P s → ∃ F, op s (r :: l) = op (s.mapSlot r.handle r.slot F) l ∧ ∀ z, F z = f z) :
    ∀ (l : List Referrer) (s : State), P s → MapsSlots s (op s l) (fun h z => if NamesSlot l h z then f z else z) := by
  intro l
  induction l with
  | nil => intro s _; rw [nil]; exact (MapsSlots.refl s).congr (fun h z => by simp)
  | cons r l ih =>
    intro s hs
    obtain ⟨F, e, eF⟩ := cons s r l hs
    rw [e]
    have m := State.mapSlot_mapsSlots s r.handle r.slot F
    refine (m.trans (ih _ (keeps _ _ _ m hs))).congr (fun h z => ?_)
    have split : NamesSlot (r :: l) h z ↔ (h = r.handle ∧ z.serial = r.slot) ∨ NamesSlot l h z := by
      simp [NamesSlot, eq_comm]
    by_cases c : h = r.handle ∧ z.serial = r.slot
    · rw [if_pos c, if_pos (split.2 (Or.inl c)), eF]
      by_cases n : NamesSlot l h (f z)
      · rw [if_pos n, once]
      · rw [if_neg n]
    · rw [if_neg c]
      have : NamesSlot (r :: l) h z ↔ NamesSlot l h z := by rw [split]; simp [c]
      simp only [this]

theorem State.staleSlots_mapsSlots (s : State) (l : List Referrer) :
    MapsSlots s (s.staleSlots l) (fun h z => if NamesSlot l h z then { z with stale := true } else z) :=
  mapsSlots_of_each (P := fun _ => True) State.staleSlots (fun z => { z with stale := true })
    (fun _ => rfl) (fun _ _ _ _ _ => trivial) (fun _ => rfl) (fun _ _ _ _ => ⟨_, rfl, fun _ => rfl⟩) l s trivial

/-- What a rewrite does to a slot that moves to the new span of a key (R70). -/
def Slot.moved (z : Slot) (q : State) (k : Key) (span : Option Nat) : Slot :=
  { z.name k span with state := if z.state = .ready then .pending else z.state
                       checkFailed := q.pagesMarked (z.name k span) }

theorem Slot.moved_moved (z : Slot) (q : State) (k : Key) (span : Option Nat) :
    (z.moved q k span).moved q k span = z.moved q k span := by
  have twice : (z.moved q k span).name k span = z.moved q k span := by
    simp only [Slot.moved, Slot.name, Slot.mk.injEq, true_and, and_true, List.map_map]
    refine List.map_congr_left (fun e _ => ?_)
    simp only [Function.comp]
    split <;> simp_all
  have e : (z.moved q k span).moved q k span = { (z.moved q k span).name k span with
      state := if (z.moved q k span).state = .ready then .pending else (z.moved q k span).state
      checkFailed := q.pagesMarked ((z.moved q k span).name k span) } := rfl
  rw [e, twice]
  simp only [Slot.moved, Slot.mk.injEq, true_and, and_true]
  refine ⟨?_, rfl⟩
  by_cases h : z.state = .ready <;> simp [h]

/-- The slots that move all take their marks from the span records that the operation began with. -/
theorem State.moveSlots_mapsSlots (s : State) (k : Key) (span : Option Nat) (l : List Referrer) (q : State)
    (e : s.buffer = q.buffer) :
    MapsSlots s (s.moveSlots k span l) (fun h z => if NamesSlot l h z then z.moved q k span else z) := by
  refine mapsSlots_of_each (P := fun s => s.buffer = q.buffer) (fun s l => s.moveSlots k span l)
    (fun z => z.moved q k span) (fun z => z.moved_moved q k span)
    (fun s t g m hp => m.buffer.trans hp) (fun _ => rfl) (fun s r l hp => ⟨_, rfl, fun z => ?_⟩) l s e
  simp only [Slot.moved, State.pagesMarked, hp]; rfl

/-! ## What a detach takes out of a window -/

/-- What a slot keeps while the span buffer names spans in it: serial, frame, rendition, state, and the keys it lists. -/
def Slot.identity (z : Slot) : Nat × Nat × Rendition × SlotState × List Key :=
  (z.serial, z.frame, z.rendition, z.state, z.pages.map PageEntry.key)

/-- Naming a span in a slot keeps its identity. -/
theorem Slot.identity_name (z : Slot) (k : Key) (o : Option Nat) : (z.name k o).identity = z.identity := by
  unfold Slot.identity Slot.name
  dsimp only
  rw [List.map_map]
  have : (PageEntry.key ∘ fun e => if e.key = k then { e with span := o } else e) = PageEntry.key := by
    funext e; dsimp only [Function.comp]; split <;> rfl
  rw [this]

/-- The windows of `t` hold the same slots, by their identity, as those of `s`, in the same order, and no slot has been
created. -/
structure SameSlots (s t : State) : Prop where
  next    : t.nextSlot = s.nextSlot
  windows : ∀ h : Handle, (t.window h).slots.map Slot.identity = (s.window h).slots.map Slot.identity
    ∧ (t.window h).sending.map Slot.identity = (s.window h).sending.map Slot.identity
    ∧ (t.window h).cursor = (s.window h).cursor

namespace SameSlots

theorem refl (s : State) : SameSlots s s := ⟨rfl, fun _ => ⟨rfl, rfl, rfl⟩⟩

theorem trans (a : SameSlots s t) (b : SameSlots t u) : SameSlots s u := ⟨b.next.trans a.next, fun h =>
  ⟨(b.windows h).1.trans (a.windows h).1, (b.windows h).2.1.trans (a.windows h).2.1,
    (b.windows h).2.2.trans (a.windows h).2.2⟩⟩

theorem of_windows (a : SameSlots s t) (e : u.windows = t.windows) (n : u.nextSlot = t.nextSlot) : SameSlots s u := by
  refine ⟨n.trans a.next, fun h => ?_⟩
  have : u.window h = t.window h := by unfold State.window; rw [e]
  rw [this]; exact a.windows h

theorem map {g : Handle → Slot → Slot} (a : SameSlots s t) (m : MapsSlots t u g)
    (hg : ∀ h z, (g h z).identity = z.identity) : SameSlots s u := by
  refine a.trans ⟨by rw [m.rest], fun h => ?_⟩
  rw [m.window h]
  simp only [List.map_map]
  exact ⟨List.map_congr_left fun z _ => hg h z, List.map_congr_left fun z _ => hg h z, trivial⟩

theorem nameSpan (a : SameSlots s t) (k : Key) (o : Option Nat) (l : List Referrer) :
    SameSlots s (t.nameSpan k o l) := by
  induction l generalizing t with
  | nil => exact a
  | cons r l ih => exact ih (a.map (State.mapSlot_mapsSlots _ _ _ _) (fun h z => by split <;> [exact z.identity_name k o; rfl]))

theorem serveKeys (a : SameSlots s t) (l : List WaitingKey) : SameSlots s (t.serveKeys l) := by
  induction l generalizing t with
  | nil => exact a.of_windows rfl rfl
  | cons w l ih =>
    unfold State.serveKeys
    split
    · exact a.of_windows rfl rfl
    · rename_i i u e
      refine ih (nameSpan (a.of_windows ?_ ?_) _ _ _)
      all_goals
        unfold State.allocate at e
        split at e
        · cases e
        · cases e; rfl

theorem serve (a : SameSlots s t) : SameSlots s t.serve := a.serveKeys _

theorem freeSpan (a : SameSlots s t) (i : Nat) : SameSlots s (t.freeSpan i) := by
  unfold State.freeSpan; exact serve (a.of_windows rfl rfl)

theorem restSpan (a : SameSlots s t) (i : Nat) : SameSlots s (t.restSpan i) := by
  unfold State.restSpan; exact serve (a.of_windows rfl rfl)

theorem settleUse (a : SameSlots s t) (i : Nat) : SameSlots s (t.settleUse i) := by
  unfold State.settleUse
  split
  · exact a
  · split
    · split
      · exact a.restSpan i
      · exact a
    · split
      · exact a.freeSpan i
      · exact a
    · split
      · split
        · exact a.freeSpan i
        · exact a.freeSpan i
        · exact a
      · exact a.of_windows rfl rfl

theorem detachKey (a : SameSlots s t) (h : Handle) (n : Nat) (k : Key) : SameSlots s (t.detachKey h n k) := by
  unfold State.detachKey
  split
  · unfold State.detachSpan
    split
    · exact a
    · split
      · refine settleUse (t := t.putSpan _ _) ?_ _; exact a.of_windows rfl rfl
      · exact a
  · exact a.of_windows rfl rfl

theorem detachKeys (a : SameSlots s t) (h : Handle) (n : Nat) (l : List Key) : SameSlots s (t.detachKeys h n l) := by
  induction l generalizing t with
  | nil => exact a
  | cons k l ih => exact ih (a.detachKey h n k)

end SameSlots

/-- A detached slot leaves its window or sending set; every other slot stays, in order. -/
theorem State.detachSlot_window (s : State) (h : Handle) (n : Nat) :
    ((s.detachSlot h n).window h).slots.map Slot.identity
        = ((s.window h).slots.map Slot.identity).filter (fun m => m.1 != n)
      ∧ ((s.detachSlot h n).window h).sending.map Slot.identity
        = ((s.window h).sending.map Slot.identity).filter (fun m => m.1 != n)
      ∧ ((s.detachSlot h n).window h).cursor = (s.window h).cursor := by
  unfold State.detachSlot
  split
  · rename_i e
    unfold Window.slot at e
    rw [List.find?_eq_none] at e
    refine ⟨?_, ?_, rfl⟩
    · rw [List.filter_eq_self.2]; intro m hm; obtain ⟨z, hz, rfl⟩ := List.mem_map.1 hm
      simpa [Slot.identity] using e z (List.mem_append_left _ hz)
    · rw [List.filter_eq_self.2]; intro m hm; obtain ⟨z, hz, rfl⟩ := List.mem_map.1 hm
      simpa [Slot.identity] using e z (List.mem_append_right _ hz)
  · rename_i x e
    have q := ((SameSlots.refl s).detachKeys h n (x.pages.map PageEntry.key)).windows h
    have fil : ∀ l : List Slot, (l.filter (fun x => x.serial != n)).map Slot.identity
        = (l.map Slot.identity).filter (fun m => m.1 != n) := fun l => by rw [List.filter_map]; rfl
    unfold State.removeSlot
    rw [State.window_setWindow]
    dsimp only
    rw [fil, fil, q.1, q.2.1]
    exact ⟨rfl, rfl, q.2.2⟩

theorem State.detachSlots_window (l : List Nat) (s : State) (h : Handle) :
    ((s.detachSlots h l).window h).slots.map Slot.identity
        = ((s.window h).slots.map Slot.identity).filter (fun m => !l.contains m.1)
      ∧ ((s.detachSlots h l).window h).sending.map Slot.identity
        = ((s.window h).sending.map Slot.identity).filter (fun m => !l.contains m.1)
      ∧ ((s.detachSlots h l).window h).cursor = (s.window h).cursor := by
  induction l generalizing s with
  | nil => refine ⟨?_, ?_, rfl⟩ <;> simp [State.detachSlots]
  | cons n l ih =>
    unfold State.detachSlots
    have a := ih (s.detachSlot h n)
    have b := State.detachSlot_window s h n
    rw [a.1, a.2.1, a.2.2, b.1, b.2.1, b.2.2]
    simp only [List.filter_filter, List.contains_cons, Bool.not_or]
    refine ⟨List.filter_congr fun m _ => ?_, List.filter_congr fun m _ => ?_, trivial⟩ <;> rw [Bool.and_comm] <;> rfl

theorem State.detachSlots_next (l : List Nat) (s : State) (h : Handle) : (s.detachSlots h l).nextSlot = s.nextSlot := by
  induction l generalizing s with
  | nil => rfl
  | cons n l ih =>
    unfold State.detachSlots
    rw [ih]
    unfold State.detachSlot
    split
    · rfl
    · exact ((SameSlots.refl s).detachKeys h n _).next

theorem identities_all (l : List Slot) :
    (l.map Slot.identity).filter (fun m => !(l.map Slot.serial).contains m.1) = [] := by
  rw [List.filter_eq_nil_iff]
  intro m hm
  obtain ⟨z, hz, rfl⟩ := List.mem_map.1 hm
  simp only [Bool.not_eq_true, Bool.not_eq_false']
  exact List.elem_eq_true_of_mem (List.mem_map.2 ⟨z, hz, rfl⟩)

theorem State.detachWindow_slots (s : State) (h : Handle) : ((s.detachWindow h).window h).slots = [] := by
  have := (State.detachSlots_window ((s.window h).slots.map Slot.serial) s h).1
  rw [identities_all] at this
  exact List.map_eq_nil_iff.1 this

theorem State.detachSending_sending (s : State) (h : Handle) : ((s.detachSending h).window h).sending = [] := by
  have := (State.detachSlots_window ((s.window h).sending.map Slot.serial) s h).2.1
  rw [identities_all] at this
  exact List.map_eq_nil_iff.1 this

/-- Detaching a window brings no slot into an empty sending set. -/
theorem State.detachWindow_sending (s : State) (h : Handle) (e : (s.window h).sending = []) :
    ((s.detachWindow h).window h).sending = [] := by
  have := (State.detachSlots_window ((s.window h).slots.map Slot.serial) s h).2.1
  rw [e] at this
  exact List.map_eq_nil_iff.1 this

/-! ## Bindings and reservations -/

/-- The reservation of a record that is neither CLOSED nor FAULTED (R22). -/
theorem reservationFor_live {st : StreamState} (h1 : st ≠ .closed) (h2 : st ≠ .faulted) (d : Nat) (r : Rendition)
    (k : Clip) : reservationFor st d r k
      = d * (if st = .negotiating then max (k.bound .primary) (k.bound .proxy) else k.bound r) := by
  cases st <;> first | exact absurd rfl h1 | exact absurd rfl h2 | rfl

/-- A binding to an entry of the active bank resolves to that entry (R17). -/
theorem State.boundClip_of_active {k : Clip} {e : Word} (h1 : s.tables.active.clip k.clipId = some k)
    (h2 : k.edition = some e) {r : Stream} (hr : r.binding = some (k.clipId, e)) : s.boundClip r = some k := by
  have found : s.tables.active.clips.find? (fun c => c.clipId == k.clipId && c.edition == some e) = some k := by
    unfold Bank.clip at h1
    rw [List.find?_eq_some_iff_append] at h1 ⊢
    obtain ⟨a, l, m, h, b⟩ := h1
    refine ⟨by simp [h2], l, m, h, fun x hx => ?_⟩
    have := b x hx
    simp at this
    simp [this]
  unfold State.boundClip
  rw [hr]
  dsimp only
  unfold TableStore.lookup
  rw [found]

/-- The offset of index 0 is 0, whatever the rate (R142). -/
@[simp] theorem rateOffset_zero (o : Option (Nat × Nat)) : rateOffset o 0 = 0 := by
  cases o <;> simp [rateOffset, offset]

end Sys2Proof.Machine
end

