-- ==== Sys2Proof/Laws/Folds.lean ====
section
/-! SUPPORT. What the operations over lists do, said once: closing, abandoning and detaching as folds, one pass of a
top-up, one key of the allocation queue, and the referrer entries that a slot's change reaches. -/

namespace Sys2Proof.Machine

open Sys2Proof

variable {s t : State}

/-! ## Folds -/

theorem State.closeAll_eq_foldl (l : List Handle) : ∀ s : State, s.closeAll l = l.foldl State.closeAtOnce s := by
  induction l with
  | nil => intro s; rfl
  | cons h t ih => intro s; exact ih (s.closeAtOnce h)

theorem State.abandonAnswers_eq_foldl (l : List LocalAnswer) :
    ∀ s : State, s.abandonAnswers l = l.foldl State.endAnswer s := by
  induction l with
  | nil => intro s; rfl
  | cons a t ih => intro s; exact ih (s.endAnswer a)

theorem State.detachSlots_eq_foldl (h : Handle) (l : List Nat) :
    ∀ s : State, s.detachSlots h l = l.foldl (fun q serial => q.detachSlot h serial) s := by
  induction l with
  | nil => intro s; rfl
  | cons n t ih => intro s; exact ih (s.detachSlot h n)

/-! ## The allocation queue (R81) -/

/-- Naming a span changes the slots that the referrers stand for, and nothing else. -/
theorem State.nameSpan_mapsSlots (s : State) (k : Key) (o : Option Nat) (l : List Referrer) :
    MapsSlots s (s.nameSpan k o l) (fun h z => if NamesSlot l h z then z.name k o else z) := by
  refine mapsSlots_of_each (P := fun _ => True) (fun s l => s.nameSpan k o l) (fun z => z.name k o)
    (fun z => ?_) (fun _ _ _ _ _ => trivial) (fun _ => rfl) (fun _ _ _ _ => ⟨_, rfl, fun _ => rfl⟩) l s trivial
  simp only [Slot.name, Slot.mk.injEq, true_and, and_true, List.map_map]
  refine List.map_congr_left (fun e _ => ?_)
  simp only [Function.comp]
  split <;> simp_all

theorem State.nameSpan_withBuffer (b : SpanBuffer) (k : Key) (o : Option Nat) (l : List Referrer) :
    ∀ s : State, State.nameSpan { s with buffer := b } k o l = { s.nameSpan k o l with buffer := b } := by
  induction l with
  | nil => intro s; rfl
  | cons r l ih => intro s; exact ih (s.mapSlot r.handle r.slot (fun x => x.name k o))

/-- Which span is taken does not depend on the keys that wait. -/
theorem SpanBuffer.take_withWaiting (b : SpanBuffer) (l : List WaitingKey) :
    SpanBuffer.take { b with waiting := l } = b.take.map (fun e => (e.1, { e.2 with waiting := l })) := by
  unfold SpanBuffer.take
  dsimp only
  split
  · rfl
  · split
    · rfl
    · split <;> rfl

/-- The service of a list of keys does not depend on the keys that the queue lists. -/
theorem State.serveKeys_withWaiting (l : List WaitingKey) (keys : List WaitingKey) : ∀ s : State,
    State.serveKeys { s with buffer := { s.buffer with waiting := l } } keys = s.serveKeys keys := by
  induction keys with
  | nil => intro s; rfl
  | cons w rest ih =>
    intro s
    unfold State.serveKeys State.allocate
    dsimp only
    rw [SpanBuffer.take_withWaiting]
    cases e : s.buffer.take with
    | none => rfl
    | some p =>
      obtain ⟨i, b⟩ := p
      dsimp only [Option.map]
      set x : Span := { key := w.key, state := .filling (Fetch.create (earliest w.slots) s.fetch.enqueue),
                        refs := w.slots, pins := 0, refill := false, checkFailed := false }
      have a : ∀ c : SpanBuffer, State.nameSpan (State.nextSequence { s with buffer := c.put i x }) w.key (some i) w.slots
          = { State.nameSpan s.nextSequence w.key (some i) w.slots with buffer := c.put i x } :=
        fun c => State.nameSpan_withBuffer _ _ _ _ s.nextSequence
      have h := ih { State.nameSpan s.nextSequence w.key (some i) w.slots with buffer := b.put i x }
      rw [← a b] at h
      rw [← h]
      congr 1
      exact (a { b with waiting := l }).trans (by rw [a b]; rfl)

/-- The front key of the allocation queue is served where a span can be taken, and then the rest of the queue. -/
theorem State.serve_cons {w : WaitingKey} {rest : List WaitingKey} {i : Nat} {u : State}
    (h : s.buffer.waiting = w :: rest) (e : s.allocate w.key w.slots = some (i, u)) :
    s.serve = State.serve { u.nameSpan w.key (some i) w.slots with
      buffer := { (u.nameSpan w.key (some i) w.slots).buffer with waiting := rest } } := by
  have a : s.serve = (u.nameSpan w.key (some i) w.slots).serveKeys rest := by
    unfold State.serve
    rw [h, State.serveKeys, e]
  exact a.trans (State.serveKeys_withWaiting rest rest _).symm

/-! ## Top-up (R60) -/

/-- A new slot stands at its place, and nothing else of the window changes. -/
theorem State.createSlot_window (s : State) (h : Handle) (f j : Nat) : ∃ x : Slot, x.frame = f
    ∧ (s.createSlot h f j).window h
      = { s.window h with slots := (s.window h).slots.take j ++ x :: (s.window h).slots.drop j } := by
  have key : ∀ (r : Referrer) (l : List PageEntry) (u : State), (u.attachAll r l).state.windows = u.windows := by
    intro r l
    induction l with
    | nil => intro u; rfl
    | cons e l ih =>
      intro u
      have a : (u.attach r e.key).1.windows = u.windows := by
        unfold State.attach
        split
        · split <;> rfl
        · dsimp only
          split
          · rfl
          · unfold State.allocate
            split
            · rename_i q
              split at q
              · cases q
              · cases q; rfl
            · rfl
      exact (ih _).trans a
  unfold State.createSlot
  dsimp only
  rw [State.window_setWindow]
  generalize e : State.attachAll _ _ _ = c
  have w : c.state.window h = s.window h := by unfold State.window; rw [← e, key]
  rw [w]
  exact ⟨_, by dsimp only, rfl⟩

/-- Passes beyond those that the window has places for change nothing. -/
theorem State.topUpPasses_enough (h : Handle) (n : Nat) : ∀ (s : State) (m : Nat),
    (s.stream h).effDepth ≤ (s.window h).count + n → (s.stream h).effDepth ≤ (s.window h).count + m →
    s.topUpPasses h n = s.topUpPasses h m := by
  induction n with
  | zero =>
    intro s m a _
    cases m with
    | zero => rfl
    | succ m =>
      unfold State.topUpPasses
      split
      · rfl
      · rw [if_neg (by omega)]
  | succ n ih =>
    intro s m a b
    cases m with
    | zero =>
      unfold State.topUpPasses
      split
      · rfl
      · rw [if_neg (by omega)]
    | succ m =>
      unfold State.topUpPasses
      split
      · rfl
      · rename_i f _
        by_cases c : (s.window h).count < (s.stream h).effDepth
        · rw [if_pos c, if_pos c]
          dsimp only
          obtain ⟨x, _, w⟩ := s.createSlot_window h f (s.window h).slots.length
          have q := (Quiet.refl s).createSlot h f (s.window h).slots.length
          have k : ∀ c, (((s.createSlot h f (s.window h).slots.length).setCursor h c).window h).count
              = (s.window h).count + 1 := by
            intro c
            unfold State.setCursor
            rw [State.window_setWindow, w]
            simp [Window.count]; omega
          have st : ∀ c, ((s.createSlot h f (s.window h).slots.length).setCursor h c).stream h = s.stream h :=
            fun c => q.stream h
          refine ih _ m ?_ ?_
          · rw [k, st]; omega
          · rw [k, st]; omega
        · rw [if_neg c, if_neg c]

/-- One pass of a top-up: a slot at the tail for the cursor's frame, and the cursor moves on. -/
theorem State.topUp_pass {h : Handle} {f : Nat} (hw : (s.stream h).windowed = true)
    (hc : (s.window h).cursor = some f) (hn : (s.window h).count < (s.stream h).effDepth) :
    s.topUp h = ((s.createSlot h f (s.window h).slots.length).setCursor h
      (sequenceFrame (s.frameCount (s.stream h)) f (s.stream h).stride 1)).topUp h := by
  obtain ⟨x, _, w⟩ := s.createSlot_window h f (s.window h).slots.length
  have q := (Quiet.refl s).createSlot h f (s.window h).slots.length
  set u := s.createSlot h f (s.window h).slots.length
  have fr : u.frameCount (u.stream h) = s.frameCount (s.stream h) := by
    unfold State.frameCount State.boundRecord State.boundClip
    rw [q.tables, q.stream]
  have st : ∀ c, (u.setCursor h c).stream h = s.stream h := fun c => q.stream h
  unfold State.topUp
  rw [st, if_pos hw, if_pos hw]
  obtain ⟨d, e⟩ : ∃ d, (s.stream h).effDepth = d + 1 := ⟨(s.stream h).effDepth - 1, by omega⟩
  conv_lhs => rw [e, State.topUpPasses, hc]
  dsimp only
  rw [if_pos hn]
  rw [fr, q.stream]
  refine State.topUpPasses_enough h d _ _ ?_ ?_ <;> rw [st]
  · unfold State.setCursor
    rw [State.window_setWindow, w]
    simp [Window.count]; omega
  · omega

/-! ## Referrer entries (R57, R83) -/

/-- A span whose referrer entries of one slot have been changed. -/
def Span.told (x : Span) (h : Handle) (serial : Nat) (f : Referrer → Referrer) : Span :=
  Span.redeadline { x with refs := mapReferrer h serial f x.refs }

theorem Span.told_told {h : Handle} {serial : Nat} {f : Referrer → Referrer} (once : ∀ r, f (f r) = f r)
    (x : Span) : (x.told h serial f).told h serial f = x.told h serial f := by
  have refs : ∀ y : Span, y.redeadline.refs = y.refs := by
    intro y; unfold Span.redeadline; split <;> [split; skip; skip] <;> rfl
  have twice : ∀ y : Span, y.redeadline.redeadline = y.redeadline := by
    rintro ⟨k, st, l, p, r, c⟩
    cases st <;> first | rfl | (cases l <;> rfl)
  have same : mapReferrer h serial f (mapReferrer h serial f x.refs) = mapReferrer h serial f x.refs := by
    unfold mapReferrer
    rw [List.map_map]
    refine List.map_congr_left fun r _ => ?_
    dsimp only [Function.comp]
    by_cases c : r.handle = h ∧ r.slot = serial
    · simp only [if_pos c, once, ite_self]
    · simp only [if_neg c]
  unfold Span.told
  rw [refs]
  dsimp only
  rw [same]
  have : ∀ y : Span, y.refs = mapReferrer h serial f x.refs →
      ({ y.redeadline with refs := mapReferrer h serial f x.refs } : Span) = y.redeadline := by
    intro y e
    rw [← e, ← refs y]
  rw [this _ rfl, twice]

/-- A change of a slot's referrer entries reaches the spans that its pages name, and no other span. -/
theorem State.span_mapEntries {h : Handle} {serial i : Nat} {f : Referrer → Referrer} (once : ∀ r, f (f r) = f r)
    (l : List PageEntry) : ∀ (s : State) (x : Span), s.buffer.span i = some x →
    (s.mapEntries h serial f l).buffer.span i
      = if ∃ e ∈ l, e.span = some i then some (x.told h serial f) else some x := by
  induction l with
  | nil => intro s x hx; simpa [State.mapEntries] using hx
  | cons e l ih =>
    intro s x hx
    unfold State.mapEntries
    cases es : e.span with
    | none =>
      have a : (s.mapEntry h serial f e).buffer.span i = some x := by unfold State.mapEntry; rw [es]; exact hx
      rw [ih _ _ a]
      simp [es]
    | some j =>
      by_cases c : j = i
      · subst c
        have a : (s.mapEntry h serial f e).buffer.span j = some (x.told h serial f) := by
          unfold State.mapEntry
          rw [es]; dsimp only; rw [hx]; dsimp only
          rw [State.span_putSpan]; rfl
        rw [ih _ _ a, Span.told_told once, ite_self, if_pos ⟨e, List.mem_cons_self .., es⟩]
      · have a : (s.mapEntry h serial f e).buffer.span i = some x := by
          unfold State.mapEntry
          rw [es]; dsimp only
          split
          · exact hx
          · exact (Keyed.get_put_of_ne _ _ (Ne.symm c)).trans hx
        rw [ih _ _ a]
        simp [es, c]

end Sys2Proof.Machine
end

