-- ==== Sys2Proof/Laws/Transitions.lean ====
section
/-! SUPPORT. What a change of the quiesce state and the return of fetch records do, said once: a quiesce state that leaves
or enters QUIESCED is a transition (R164), the lists of records are folds, and a returned record is queued or cancelled. -/

namespace Sys2Proof.Machine

open Sys2Proof

variable {s : State} {i : Nat} {x : Span} {f : Fetch}

/-! ## The quiesce state (R164) -/

theorem State.setQuiesce_of_same {q : Quiesce} (h : q = .quiesced ↔ s.array.quiesce = .quiesced) :
    s.setQuiesce q = { s with array := { s.array with quiesce := q } } := by
  unfold State.setQuiesce State.level
  dsimp only
  rw [if_pos]
  by_cases e : q = .quiesced
  · rw [if_pos e, if_pos (h.1 e)]
  · rw [if_neg e, if_neg (fun y => e (h.2 y))]

theorem State.setQuiesce_of_changed {q : Quiesce} (h : ¬ (q = .quiesced ↔ s.array.quiesce = .quiesced)) :
    s.setQuiesce q = State.transition { s with array := { s.array with quiesce := q } } .quiesced := by
  unfold State.setQuiesce State.level
  dsimp only
  rw [if_neg]
  by_cases e : q = .quiesced
  · rw [if_pos e, if_neg (fun y => h ⟨fun _ => y, fun _ => e⟩)]; decide
  · rw [if_neg e, if_pos (by by_contra y; exact h ⟨fun z => absurd z e, fun z => absurd z y⟩)]; decide

/-! ## Lists of records (R84, R106, R117, R118) -/

theorem State.releaseAll_eq_foldl (l : List Nat) : ∀ s : State, s.releaseAll l = l.foldl State.release s := by
  induction l with
  | nil => intro s; rfl
  | cons i t ih => intro s; exact ih (s.release i)

theorem State.requeueAll_eq_foldl (l : List Nat) :
    ∀ s : State, s.requeueAll l = l.foldl (fun q i => q.requeue false i) s := by
  induction l with
  | nil => intro s; rfl
  | cons i t ih => intro s; exact ih (s.requeue false i)

theorem State.transitionAll_eq_foldl (l : List Source) :
    ∀ s : State, s.transitionAll l = l.foldl State.transition s := by
  induction l with
  | nil => intro s; rfl
  | cons i t ih => intro s; exact ih (s.transition i)

/-- A record that returns while a referrer wants it keeps its place by deadline and sequence. -/
theorem State.requeue_wanted (h : s.buffer.span i = some x) (hf : x.state = .filling f) (hr : x.refs ≠ []) :
    s.requeue false i = s.putSpan i { x with state := .filling { f with state := .queued } } := by
  have w : x.wanted = true := by unfold Span.wanted; cases e : x.refs with
    | nil => exact absurd e hr
    | cons _ _ => rfl
  unfold State.requeue
  rw [h]
  dsimp only
  rw [if_pos w, if_neg (by decide), State.mapFetch_known h hf]

/-- A record that nothing wants is cancelled with its span. -/
theorem State.requeue_unwanted (h : s.buffer.span i = some x) (hr : x.refs = []) (fresh : Bool) :
    s.requeue fresh i = s.freeSpan i := by
  unfold State.requeue Span.wanted
  rw [h]
  dsimp only
  rw [hr]
  rfl

end Sys2Proof.Machine
end

