-- ==== Sys2Proof/Tests/Slice0.lean ====
section
/-! SUPPORT. The model's own tests: ill-formed commands that the checks refuse, values worked out from the manual, and for
every statement that has hypotheses a state and operands that meet them (`test_meets_<statement>`). -/

namespace Sys2Proof.Tests

set_option Elab.async false

open Sys2Proof Sys2Proof.Machine

/-! ## Small states -/

/-- An arrival at time 10. -/
def at10 (src : Half) (len : Nat) : Arrival := { time := 10, src := src, len := len }

def primary1 : RenditionRecord :=
  { volume := 0, frameBlocks := 2, frameCount := 4, extents := [{ start := 0, pages := 1 }], pageBound := 2 }

def proxy1 : RenditionRecord :=
  { volume := 1, frameBlocks := 1, frameCount := 4, extents := [{ start := 0, pages := 1 }], pageBound := 2 }

/-- A clip with a proxy. -/
def clip1 : Clip :=
  { clipId := 1, edition := some 1, numerator := 30, denominator := 1, firstTimecode := 0, primary := primary1,
    proxy := some proxy1 }

/-- A clip without a proxy, one of whose frames needs more pages than the ceiling of `small` allows. -/
def clip2 : Clip :=
  { clipId := 2, edition := some 1, numerator := 30, denominator := 1, firstTimecode := 0,
    primary := { primary1 with volume := 2, frameBlocks := 768, pageBound := 5 }, proxy := none }

/-- Two clips, station 7 of shed class 0 with two streams, a ceiling of 16 pages. -/
def small : Bank :=
  { Bank.reset with
    clips := [clip1, clip2], stations := [{ station := 7, shedClass := 0, limit := 2 }],
    policy := { Policy.reset with ceiling := 16 } }

/-- The small bank active, both links UP. -/
def up : State :=
  { State.reset with
    tables := { TableStore.reset with active := small, staged := small, generation := 1 }
    array := { ArrayPort.reset with linkUp := true }
    floor := { FloorPort.reset with linkUp := true } }

/-- A record of station 7 that plays clip 1. -/
def record (st : StreamState) : Stream :=
  { Stream.reset with state := st, owner := some 7, binding := some (1, 1), credit := 1, reservation := 8 }

/-- Stream 0 in the state given. -/
def withStream (st : StreamState) : State := up.setStream 0 (record st)

/-- A slot of frame 0 with no span. -/
def slot0 (st : SlotState) : Slot :=
  { serial := 0, frame := 0, rendition := .primary, pages := [], deadline := 5, state := st, checkFailed := false,
    stale := false }

/-- Stream 0 playing, due at 5, with one slot at its head. -/
def playing (st : SlotState) (r : Stream) : State :=
  ((up.setStream 0 { r with state := .playing }).setCadence 0
    { anchor := 5, index := 0, nextDue := some 5, headWait := false, rate := some (30, 1) }).setWindow 0
    { slots := [slot0 st], sending := [], cursor := none }

/-- Stream 0 waiting at its head. -/
def stalled (st : SlotState) (r : Stream) : State :=
  (playing st r).setCadence 0 { anchor := 5, index := 0, nextDue := none, headWait := true, rate := some (30, 1) }

/-- A record with an attempt out, its tag value 3. -/
def fetch1 : Fetch :=
  { state := .issued, deadline := 1000, sequence := 0, failures := 0, notBefore := none, tag := some 3, base := 0,
    received := 0, check := 0, issueTime := some 0, expiry := some 10, firstIssue := some 0, report := false,
    waiting := false }

def spanOf (st : SpanState) : Span :=
  { key := { volume := 0, page := 0 }, state := st, refs := [], pins := 0, refill := false, checkFailed := false }

/-- Span 0 in use, in the state given. -/
def withSpan (x : Span) : State := { up with buffer := { SpanBuffer.reset with spans := [(0, x)], fresh := 1 } }

/-- A referrer of a slot of stream 0. -/
def user : Referrer := { handle := 0, slot := 0, deadline := 1000, sending := false }

/-- The port with quiesce state `q`. -/
def quiesced (q : Quiesce) (s : State) : State := { s with array := { s.array with quiesce := q } }

/-- A message frame of Ethertype 0x0600 with the kind, destination and source given. -/
def message (kind dst src : Nat) (body : List Byte) : Frame :=
  zeros 12 ++ bytes2 0x0600 ++ bytes1 kind ++ zeros 1 ++ bytes2 dst ++ bytes2 src ++ bytes2 body.length ++ body

/-- The body of a BR for two blocks of page 0 of volume 0. -/
def readBody : List Byte := bytes2 9 ++ zeros 2 ++ bytes2 2 ++ zeros 2 ++ bytes8 0

/-- The body of an RN that covers page 0 of volume 0. -/
def rewriteBody : List Byte := zeros 4 ++ bytes4 256 ++ bytes8 0

/-- A rule that trips on QUIESCED HIGH and reaches class 0. -/
def pauseRule : ShedRule := { enable := true, source := .quiesced, level := .high, action := .pause, classes := 1 }

/-- The small bank with rule 0 in use. -/
def ruled : Bank := { small with shed := { small.shed with rules := small.shed.rules.set 0 pauseRule } }

/-- Stream 0 idle, with rule 0 in the state given. -/
def withRule (x : RuleState) : State :=
  { withStream .idle with tables := { up.tables with active := ruled, staged := ruled }, rules := up.rules.set 0 x }

/-- The commit walk at a handle. -/
def walk (n : Nat) (s : State) : State := { s with tables := { s.tables with walk := .walking n 9 5 } }

/-- The small state with rule 0 to trip on the source and the level given, in the state given. -/
def ruleOn (src : Source) (l : Level) (x : RuleState) : State :=
  let bank : Bank := { small with shed := { small.shed with
    rules := small.shed.rules.set 0 { pauseRule with source := src, level := l } } }
  { up with tables := { up.tables with active := bank, staged := bank }, rules := up.rules.set 0 x }

/-! ## Ill-formed commands are refused by the checks -/

/-- A station request whose source is no station, or whose body holds no request number and verb, or is too long. -/
theorem test_illformed_station_requests :
    ([at10 0 16, at10 0xFFFF 16, at10 7 7, at10 7 8209].all fun a =>
      [Instr.openStream a 1 1 1 0 1, .prime a 1 0 0 1, .start a 1 0 0 1, .play a 1 0, .pause a 1 0, .seek a 1 0 0 1,
        .close a 1 0, .unknownStationVerb a 1 8 0].all fun c => !c.wf) = true := by decide

/-- An unknown verb that is a known one. -/
theorem test_illformed_unknown_verbs :
    ((List.range 8).tail.all fun v => !(Instr.unknownStationVerb (at10 7 8) 1 (BitVec.ofNat 8 v) 0).wf)
      && ((List.range 16).tail.all fun v => !(Instr.unknownManageVerb (at10 9 8) 1 (BitVec.ofNat 8 v)).wf) = true := by
  decide

/-- Other messages for the part with no station as source on the floor, or a body that is too long. -/
theorem test_illformed_messages :
    ([Instr.probeReply (at10 0 4) 0 1 0, .probeReply (at10 7 8209) 0 1 0, .creditGrant (at10 0xFFFF 4) 0 1,
      .creditGrant (at10 7 8209) 0 1, .blockDataForPart (at10 9 8209) 0 0 1 false 0 0 (zeros 8197),
      .blockDataForPart (at10 9 16) 0 0 1 false 0 0 [], .deferForPart (at10 9 8209) 0 0, .quiesceRequest (at10 9 8209),
      .quiesceEnd (at10 9 8209)].all fun c => !c.wf) = true := by decide +kernel

/-- Whole frames shorter than their headers, or longer than a port takes. -/
theorem test_illformed_frames :
    ([zeros 21, zeros 9217].all fun f =>
      !(Instr.stationBlockRead 0 f).wf && !(Instr.forwardedArrayMessage 0 f).wf && !(Instr.rewriteNotice 0 f).wf) = true
    ∧ (Instr.malformedFrame 0 .floor (zeros 9217)).wf = false := by decide +kernel

/-- Management requests without a readable request number and verb. -/
theorem test_illformed_management :
    ([at10 9 7, at10 9 8209].all fun a =>
      [Instr.unstageClip a 1 1, .stageStation a 1 7 0 1, .unstageStation a 1 7,
        .stagePolicy a 1 { retryLimit := 1, checkMode := 1, starveLimit := 1, readTimeout := 1, probeWindow := 1,
                           guardTime := 1, ceiling := 1 },
        .stageRule a 1 { rule := 0, enable := 0, source := 1, level := 1, action := 1, classes := 0, comparator := 0,
                         debounce := 0, high := 0, low := 0 },
        .discardStage a 1, .commit a 1, .clearShed a 1 0, .readClip a 1 1 1 0 0, .readStream a 1 0,
        .readSpanCounts a 1, .readFetchCounts a 1, .resetStreams a 1, .resetPart a 1,
        .unknownManageVerb a 1 16].all fun c => !c.wf) = true := by decide

/-- The offer of clip 1 with one extent in its primary record. -/
def offer1 : ClipOffer :=
  { clipId := 1, numerator := 30, denominator := 1, firstTimecode := 0, proxy := none,
    primary := { volume := 0, extentCount := 1, frameBlocks := 2, frameCount := 4,
                 extents := [{ start := 0, pages := 1 }] } }

/-- A STAGE CLIP whose body is too short, or carries other extents than it counts, in either rendition. -/
theorem test_illformed_stage_clip :
    ([Instr.stageClip (at10 9 7) 1 offer1, .stageClip (at10 9 52) 1 { offer1 with primary.extents := [] },
      .stageClip (at10 9 76) 1 { offer1 with proxy := some { offer1.primary with extentCount := 2 } }].all
        fun c => !c.wf) = true
    ∧ (Instr.stageClip (at10 9 52) 1 offer1).wf = true := by decide

/-- A not-before time of a span that does not exist. -/
theorem test_illformed_span : (Instr.notBeforeTimeReached 0 32768).wf = false := by decide

/-! ## Values worked out from the manual -/

/-- The check value of the CRC-32 (R205): of the nine digits "123456789" it is 0xCBF43926. -/
theorem test_check_word :
    extendCheck 0 [0x31, 0x32, 0x33, 0x34, 0x35, 0x36, 0x37, 0x38, 0x39] = 0xCBF43926 := by
  decide +kernel

/-- The table of offsets (R142). -/
theorem test_offsets :
    ([1, 2, 3, 4, 24].map (offset 25 1), [1, 2, 3, 4, 24].map (offset 24000 1001), [1, 2, 3, 4, 24].map (offset 60000 1001))
      = ([40000, 80000, 120000, 160000, 960000], [41708, 83416, 125125, 166833, 1001000],
         [16683, 33366, 50050, 66733, 400400]) := by decide

/-- The rendition of the clip map example (chapter 1). -/
def blocks2000 : RenditionRecord :=
  { volume := 3, frameBlocks := 2000, frameCount := 13,
    extents := [{ start := 1048576, pages := 3 }, { start := 5242880, pages := 100 }], pageBound := pageBound 2000 }

/-- The page lists of frames 0, 1 and 12 of the example: page, first block and count of each entry. -/
theorem test_page_lists :
    ((blocks2000.pageList 0).map fun e => (e.key.page, e.first, e.count))
      = [(4096, 0, 256), (4097, 0, 256), (4098, 0, 256), (20480, 0, 256), (20481, 0, 256), (20482, 0, 256),
         (20483, 0, 256), (20484, 0, 208)]
    ∧ ((blocks2000.pageList 1).map fun e => (e.key.page, e.first, e.count)).take 2 = [(20484, 208, 48), (20485, 0, 256)]
    ∧ (blocks2000.pageList 1).length = 9 ∧ (blocks2000.pageList 12).length = 9
    ∧ ((blocks2000.pageList 12).getLast?.map fun e => (e.key.page, e.first, e.count)) = some (20578, 0, 144)
    ∧ blocks2000.pageBound = 9 ∧ blocks2000.extentsSuffice = true
    ∧ { blocks2000 with frameCount := 14 }.extentsSuffice = false := by decide +kernel

/-- The levels and runs of the debounce example (chapter 8). -/
theorem test_debounce :
    ([18000, 22000, 25000, 19000, 21000, 23000, 20000, 12000, 9000, 10000, 15000].foldl
      (fun (p : Comparator × List (Level × Nat)) v =>
        let c := p.1.sample { high := 20000, low := 10000, debounce := 3 } v
        (c, p.2 ++ [(c.level, c.run)])) (Comparator.reset, [])).2
      = [(.low, 0), (.low, 1), (.low, 2), (.low, 0), (.low, 1), (.low, 2), (.high, 0), (.high, 0), (.high, 1), (.high, 2),
         (.high, 0)] := by decide

/-- Frames remaining and frames of the scrub example (chapter 3). -/
theorem test_sequence :
    framesRemaining 13 5 (-2) = 3 ∧ (List.range 4).map (sequenceFrame 13 5 (-2)) = [some 5, some 3, some 1, none]
    ∧ framesRemaining 13 3 (-2) = 2 ∧ framesRemaining 13 12 1 = 1 := by decide

/-- An OPEN arriving as a frame spells its command; a frame for another station does not. -/
theorem test_open_frame :
    up.commandOf .floor 10 (message 0x10 1 7 (bytes4 5 ++ [1, 0, 0, 0] ++ bytes4 1 ++ [3, 0, 1, 0]))
      = some (.openStream (at10 7 16) 5 1 3 0 1)
    ∧ up.commandOf .floor 10 (message 0x10 2 7 (bytes4 5 ++ [1, 0, 0, 0] ++ bytes4 1 ++ [3, 0, 1, 0])) = none := by
  decide +kernel

/-- The frame of an SA: Ethernet and MRX headers, request number, handle, result. -/
theorem test_answer_frame :
    up.controlFrame (.sa 7 5 0xFF .badField)
      = [0xFF, 0xFF, 0xFF, 0xFF, 0xFF, 0xFF, 0x02, 0x5A, 0, 0, 0, 1, 0x06, 0, 0x11, 0, 0, 7, 0, 1, 0, 8,
         0, 0, 0, 5, 0xFF, 7, 0, 0] := by decide

/-- The state that a command answers. -/
def after (c : Instr) (s : State) : State :=
  match exec c s with
  | .next t => t
  | .fault _ => s
  | .refused _ => s

/-- OPEN with choice AUTO of a clip with a proxy enters NEGOTIATING: the SA starts, the PB waits. -/
theorem test_open_negotiates :
    let t := after (.openStream (at10 7 16) 5 1 3 0 1) up
    (t.stream 0).state = .negotiating ∧ (t.stream 0).reservation = 8 ∧ (t.stream 0).probeExpiry = some 5010
    ∧ t.tx.sending = some (.control (.sa 7 5 0 .accepted)) ∧ t.tx.control = [.pb 7 0 0 245760] := by decide +kernel

/-- PRIME from IDLE builds the window and asks for its pages; the issue hold of the reset keeps the reads back. -/
theorem test_prime_builds :
    let t := after (.prime (at10 7 16) 5 0 0 1) (withStream .idle)
    (t.stream 0).state = .priming ∧ (t.window 0).slots.map Slot.frame = [0, 1, 2, 3]
    ∧ t.buffer.spans.map (fun e => (e.1, e.2.refs.length)) = [(0, 4)] ∧ t.issuedCount = 0 := by decide +kernel

/-- The end of the issue hold lets the first read start: page 0 of volume 0, under tag 0. -/
theorem test_issue_hold_end :
    (after (.issueHoldEnd 1000000) (after (.prime (at10 7 16) 5 0 0 1) (withStream .idle))).array.sending
      = some (.control (.mn .ready false))
    ∧ (after (.arrayTransmissionEnd 1000001) (after (.issueHoldEnd 1000000)
        (after (.prime (at10 7 16) 5 0 0 1) (withStream .idle)))).array.sending
      = some (.read { tag := 0, volume := 0, count := 256, start := 0 }) := by decide +kernel

/-- The head that a settlement sends keeps the deadline recomputed from the new anchor (R64): now, less the guard. -/
theorem test_settled_send_deadline :
    let s := (stalled .ready (record .playing)).stamp 70000
    ((s.settleWait 0).window 0).sending.map (fun z => (z.serial, z.deadline))
      = [(0, 70000 - (s.tables.active.policy.guardTime * 1000))] := by decide +kernel

/-! ## States and operands that meet the hypotheses of the statements -/

theorem test_meets_StepIdlesOnAnEmptyQueue : up.pending = [] := rfl

theorem test_meets_CommandsKeepTheQueue : ∃ t : State, exec (.dueTime 10 0) (withStream .playing) = .next t := ⟨_, rfl⟩

/-- The four invariants that every step keeps, and a step. -/
theorem test_meets_StepKeeps :
    up.memoryOk ∧ up.OneNotice ∧ up.Counted ∧ up.tx.sending = none ∧ up.tables.walk = .idle
    ∧ (up.tx.control.length ≤ 256 ∧ up.responder.notices.length ≤ 32 ∧ up.array.control.length ≤ 16
      ∧ up.array.toFloor.length ≤ 256 ∧ up.floor.toArray.length ≤ 256) := by decide +kernel

theorem test_meets_StepKeeps_next : ∃ t : State, step up = .next t := ⟨_, rfl⟩

theorem test_meets_FullResetCommands :
    up.Taking .array (at10 9 8).src ∧ (at10 9 8).len = 8 ∧ up.Taking .array (at10 9 9).src ∧ 8 < (at10 9 9).len := by
  decide

/-- A link DOWN, a port that holds, and a source or header that fails, for a message by fields and for a whole frame. -/
theorem test_meets_LinkStateDecidesWhatIsTaken :
    arrivalAt (.creditGrant (at10 7 4) 0 1) = some (.floor, at10 7 4) ∧ State.reset.linkUp .floor = false
    ∧ (up.linkUp .floor = true ∧ ({ up with floor.toArray := List.replicate 256 [] } : State).waits .floor = true)
    ∧ (up.waits .floor = false ∧ up.sourceOk .floor 1 = false ∧ up.sourceOk .floor 0xFFFF = false)
    ∧ frameAt (.stationBlockRead 10 []) = some (.floor, 10, []) ∧ up.headerOk .floor [] = false := by decide +kernel

theorem test_meets_ShortRequestsAreDiscarded :
    arrivalAt (.play (at10 7 7) 1 0) = some (.floor, at10 7 7) ∧ isRequest (.play (at10 7 7) 1 0) = true
    ∧ up.Taking .floor 7 ∧ isRequest (.commit (at10 9 7) 1) = true ∧ up.Taking .array 9 := by decide

/-- A frame that spells nothing, one that spells a CG, and a link that is DOWN. -/
theorem test_meets_MalformedFramesHaveNoEffect :
    (up.stamp 10).commandOf .floor 10 [] = none
    ∧ (up.stamp 10).commandOf .floor 10 (message 0x15 1 7 [0, 1, 0, 0]) = some (.creditGrant (at10 7 4) 0 1)
    ∧ up.linkUp .floor = true ∧ State.reset.linkUp .floor = false := by decide

/-- A queue of 255 messages has room, one of 256 has not. -/
theorem test_meets_ControlMessagesArePlacedOrDropped :
    let q (n : Nat) (s : State) : State := { s with tx.control := List.replicate n (.sa 7 1 0 .accepted) }
    State.reset.floor.linkUp = false ∧ (q 255 up).RoomFor 1
    ∧ ((q 256 up).floor.linkUp = true ∧ 256 ≤ (q 256 up).tx.control.length ∧ ((q 256 up).stream 0).live = false)
    ∧ ((q 256 (withStream .idle)).stream 0).live = true := by decide +kernel

/-- A stream of station 7 at every handle up to `n`. -/
def openUpTo (n : Nat) (r : Stream) : State :=
  { up with streams := Vector.ofFn fun h => if h.1 < n then r else Stream.reset }

/-- Station 7 at its limit with two streams, and below it with one; every handle live; a sum at the ceiling. -/
theorem test_meets_OpenIsRefusedByTheFirstFailingCheck :
    let e : StationEntry := { station := 7, shedClass := 0, limit := 2 }
    let full := openUpTo 128 { record .idle with owner := some 8 }
    let heavy := openUpTo 1 { record .idle with reservation := 16 }
    (up.Taking .floor 8 ∧ up.tables.active.station 8 = none)
    ∧ (up.Taking .floor 7 ∧ up.tables.active.station 7 = some e)
    ∧ ((openUpTo 2 (record .idle)).tables.active.station 7 = some e ∧ e.limit ≤ (openUpTo 2 (record .idle)).liveCount 7)
    ∧ (full.liveCount 7 < e.limit ∧ full.tables.active.station 7 = some e ∧ ∀ h : Handle, (full.stream h).live = true)
    ∧ (up.liveCount 7 < e.limit ∧ (up.stream 0).live = false ∧ up.tables.active.clip 3 = none
      ∧ up.tables.active.clip 2 = some clip2 ∧ clip2.proxy = none)
    ∧ (heavy.Taking .floor 7 ∧ heavy.liveCount 7 < e.limit ∧ (heavy.stream 1).live = false
      ∧ heavy.tables.active.clip 1 = some clip1 ∧ openFields 16 1 1 12 1 = some (.primary, .skip, 12)
      ∧ heavy.placement (heavy.shedsAtOpen 7 .demote) clip1 .primary (heavy.openDepth 7 12) = none) := by
  decide +kernel

/-- The last depth that is in range, each choice at the ceiling and above it. -/
theorem test_meets_OpenPlacementFollowsTheTable :
    ((12 : Byte).toNat ≤ 12 ∧ ((1 : Byte), Choice.primary) ∈ [((1 : Byte), Choice.primary), (2, .proxy), (3, .auto)])
    ∧ (up.reservationSum + 8 * clip1.primary.pageBound ≤ up.tables.active.policy.ceiling
      ∧ ¬ up.reservationSum + 9 * clip1.primary.pageBound ≤ up.tables.active.policy.ceiling
      ∧ clip1.proxy = some proxy1
      ∧ ¬ up.reservationSum + 9 * max clip1.primary.pageBound proxy1.pageBound ≤ up.tables.active.policy.ceiling) := by
  decide +kernel

/-- The proxy alone fits, and the primary alone fits. -/
theorem test_meets_OpenPlacement_auto :
    let near : State := up.setStream 0 { record .idle with reservation := 12 }
    let big : RenditionRecord := { proxy1 with pageBound := 3 }
    (¬ near.reservationSum + 1 * max blocks2000.pageBound primary1.pageBound ≤ near.tables.active.policy.ceiling
      ∧ near.reservationSum + 1 * primary1.pageBound ≤ near.tables.active.policy.ceiling)
    ∧ (¬ near.reservationSum + 2 * big.pageBound ≤ near.tables.active.policy.ceiling
      ∧ near.reservationSum + 2 * primary1.pageBound ≤ near.tables.active.policy.ceiling) := by decide +kernel

/-- An OPEN that enters IDLE, and one that enters NEGOTIATING, both at handle 1. -/
theorem test_meets_OpenFillsTheLowestClosedRecord :
    let s := openUpTo 1 (record .idle)
    let e : StationEntry := { station := 7, shedClass := 0, limit := 2 }
    s.Taking .floor 7 ∧ s.tables.active.station 7 = some e ∧ openFields 16 1 1 0 2 = some (.primary, .stall, 4)
    ∧ openFields 16 1 3 0 1 = some (.auto, .skip, 4) ∧ s.liveCount 7 < e.limit ∧ (s.stream 1).live = false
    ∧ (∀ j : Handle, j < 1 → (s.stream j).live = true) ∧ s.tables.active.clip 1 = some clip1
    ∧ s.shedsAtOpen 7 .shallow = false
    ∧ s.placement (s.shedsAtOpen 7 .demote) clip1 .primary 4 = some (.idle, .primary)
    ∧ s.placement (s.shedsAtOpen 7 .demote) clip1 .auto 4 = some (.negotiating, .primary) := by decide +kernel

theorem test_meets_OpenKeepsTheSumWithinTheCeiling :
    up.NoneArmed ∧ up.reservationSum ≤ up.tables.active.policy.ceiling
    ∧ (withRule .tripped).NoneArmed := by decide +kernel

/-- Each refusal: a handle of 128, another length, another owner, each state, a step of 9, a step of 0, frame 4 of 4. -/
theorem test_meets_StationVerbsAreRefusedInOrder :
    (up.Taking .floor 7 ∧ 127 < (128 : Byte).toNat ∧ Names 127 127 ∧ Names 0 0)
    ∧ ¬ ((up.stream 0).live = true ∧ (up.stream 0).owner = some 7)
    ∧ (∀ st ∈ [StreamState.faulted, .closing, .negotiating],
      (withStream st).Taking .floor 7 ∧ ((withStream st).stream 0).owner = some 7 ∧ ((withStream st).stream 0).state = st)
    ∧ ((withStream .idle).Usable 7 0 ∧ 8 < (9 : Byte).toInt ∧ (0xF7 : Byte).toInt < -8 ∧ (0 : Byte).toInt = 0
      ∧ (-8 ≤ (0xF8 : Byte).toInt ∧ (0xF8 : Byte).toInt ≤ 8 ∧ (0xF8 : Byte).toInt ≠ 0)
      ∧ (withStream .idle).frameCount ((withStream .idle).stream 0) ≤ (4 : Word).toNat) := by decide +kernel

/-- A move to the last frame, by the largest steps and by none. -/
theorem test_meets_PrimeStartAndSeekMoveTheStream :
    (∀ st ∈ [StreamState.idle, .playing], (withStream st).Taking .floor 7 ∧ (withStream st).Usable 7 0
      ∧ (3 : Word).toNat < (withStream st).frameCount ((withStream st).stream 0))
    ∧ (-8 ≤ (8 : Byte).toInt ∧ (8 : Byte).toInt ≤ 8 ∧ (8 : Byte).toInt ≠ 0)
    ∧ (-8 ≤ (0 : Byte).toInt ∧ (0 : Byte).toInt ≤ 8) := by decide +kernel

/-- The five states, a PAUSE mark, and a pause with each reason. -/
theorem test_meets_PlayAndPauseActByState :
    (∀ st ∈ [StreamState.idle, .priming, .primed, .playing, .paused], (withStream st).Taking .floor 7
      ∧ (withStream st).Usable 7 0 ∧ ((withStream st).stream 0).state = st ∧ (withStream st).markedWith (record st) .pause = false)
    ∧ (let s := withRule .tripped
       let r : Stream := { record .paused with marks := 1, pauseReason := some .shed }
       s.markedWith r .pause = true ∧ ((s.setStream 0 r).stream 0).state = .paused
       ∧ (s.setStream 0 r).Usable 7 0 ∧ ((s.setStream 0 r).stream 0).pauseReason = some .shed
       ∧ (s.setStream 0 { r with pauseReason := some .station }).Usable 7 0) := by decide +kernel

/-- A stream with a frame in its sending set, one without, and one that is CLOSING. -/
theorem test_meets_CloseEndsTheStream :
    let sending : State := (withStream .playing).setWindow 0 { slots := [], sending := [slot0 .sending], cursor := none }
    let closing (s : State) : State := ((((s.stamp 10).setStream 0 { s.stream 0 with state := .closing }).stopCadence 0
      |>.detachWindow 0).answer 7 1 0 .accepted)
    (sending.Taking .floor 7 ∧ (sending.stream 0).live = true ∧ (sending.stream 0).owner = some 7
      ∧ ((closing sending).window 0).sending ≠ [])
    ∧ ((withStream .idle).Taking .floor 7 ∧ ((closing (withStream .idle)).window 0).sending = [])
    ∧ ((withStream .closing).stream 0).state = .closing := by decide +kernel

theorem test_meets_StationsCannotChangeOthersStreams :
    arrivalAt (.close (at10 8 8) 1 0) = some (.floor, at10 8 8) ∧ (withStream .idle).NoneArmed
    ∧ ((withStream .idle).stream 0).live = true ∧ ((withStream .idle).stream 0).owner ≠ some 8 := by decide +kernel

/-- A stream with a window to build, from the last frame backward and from the first frame forward. -/
theorem test_meets_WindowsFollowTheSequence :
    let s := withStream .priming
    let t : State := s.setStream 0 { record .priming with position := 3, stride := -8 }
    (s.stream 0).stride ≠ 0 ∧ (s.stream 0).position < s.frameCount (s.stream 0) ∧ (s.stream 0).windowed = true
    ∧ (s.window 0).slots = [] ∧ (t.stream 0).stride ≠ 0 ∧ (t.stream 0).position < t.frameCount (t.stream 0)
    ∧ ((up.stream 0).windowed = false) := by decide +kernel

/-- A window with distinct serial numbers and frames, one of whose slots a re-target keeps; a rate; a frame in the
extents and one beyond them. -/
theorem test_meets_Windows_retarget :
    let x : Slot := { slot0 .ready with serial := 1, frame := 1 }
    let s : State := State.setWindow
      { (playing .ready (record .playing)).setStream 0 { record .playing with position := 1 } with nextSlot := 2 } 0
      { slots := [slot0 .ready, x], sending := [], cursor := some 2 }
    let w := s.window 0
    let t := s.retarget 0
    (((w.slots ++ w.sending).map Slot.serial).Nodup ∧ (w.slots.map Slot.frame).Nodup
      ∧ (∀ z ∈ w.slots ++ w.sending, z.serial < s.nextSlot) ∧ (s.stream 0).stride ≠ 0
      ∧ (s.stream 0).position < s.frameCount (s.stream 0) ∧ x.rendition = (s.stream 0).rendition ∧ x.state ≠ .failed)
    ∧ (t.window 0).slots.map (fun z => (z.serial, z.frame)) = [(1, 1), (2, 2), (3, 3)]
    ∧ (s.boundRate (s.stream 0) = some (30, 1) ∧ (s.stream 0).state = .playing ∧ (withStream .paused).boundRate
      ((withStream .paused).stream 0) = some (30, 1) ∧ s.boundRecord (s.stream 0) = some primary1)
    ∧ (0 < primary1.frameCount ∧ (1 * 2 - 1) / 256 < 1 ∧ primary1.frameCount ≤ 4) := by decide +kernel

/-- Spans that a slot names and that it does not, in each state; keys that are found, that wait, and for which a span is
taken or none is left. -/
theorem test_meets_Windows_spans :
    let e : PageEntry := { key := { volume := 0, page := 0 }, first := 0, count := 2, span := some 0 }
    let z : Slot := { slot0 .pending with pages := [e] }
    let used (st : SpanState) : Span := { spanOf st with refs := [user] }
    let queued : Fetch := { fetch1 with state := .queued, tag := none }
    let on (x : Span) : State := (withSpan x).setWindow 0 { slots := [z], sending := [], cursor := none }
    let full (l : List Nat) : SpanBuffer := { up.buffer with fresh := 32768, resting := l }
    let waiting : SpanBuffer := { up.buffer with waiting := [{ key := e.key, slots := [user] }] }
    (∀ st ∈ [SpanState.valid, .stale, .filling fetch1, .filling queued],
      ((on (used st)).window 0).slot 0 = some z ∧ (on (used st)).buffer.span 0 = some (used st)
      ∧ (∃ r ∈ (used st).refs, r.handle = (0 : Handle) ∧ r.slot = 0)
      ∧ (used st).refs.filter (fun r => !(r.handle == (0 : Handle) && r.slot == 0)) = [] ∧ (used st).pins = 0)
    ∧ ((∃ d ∈ z.pages, d.span = some 0) ∧ (∀ d ∈ z.pages, d.span ≠ some 1) ∧ fetch1.state = .issued
      ∧ queued.state ≠ .issued)
    ∧ ((on (used .valid)).buffer.find e.key = some 0 ∧ (on (used (.filling fetch1))).buffer.find e.key = some 0
      ∧ (on (used .stale)).buffer.find e.key = none ∧ (∀ w ∈ up.buffer.waiting, w.key ≠ e.key)
      ∧ waiting.find e.key = none ∧ ∃ w ∈ waiting.waiting, w.key = e.key)
    ∧ (up.buffer.take.isSome = true ∧ (full []).take = none ∧ (full []).freeList = [] ∧ (full [3]).freeList = []
      ∧ { full [] with freed := [4] }.freeList = [4]) := by decide +kernel

/-- A matching PY, one with another number, one of length 3, and the expiry at its time and before it. -/
theorem test_meets_NegotiationEndsByReplyOrExpiry :
    let s := up.setStream 0 { record .negotiating with choice := .auto, probe := some 6, probeExpiry := some 10 }
    (s.Taking .floor 7 ∧ Names 0 0 ∧ (s.stream 0).state = .negotiating ∧ (s.stream 0).owner = some 7
      ∧ (s.stream 0).probe = some 6 ∧ (s.stream 0).probe ≠ some 5 ∧ 127 < (128 : Byte).toNat)
    ∧ ((s.stream 0).probeExpiry = some 10 ∧ 10 ≤ max s.now 10 ∧ max s.now 9 < 10)
    ∧ (up.stream 0).state ≠ .negotiating := by decide +kernel

/-- A grant to no stream, to another's, to one that does not wait, and to one whose wait goes on, sends or gaps. -/
theorem test_meets_CreditGrantsAddCredit :
    (up.Taking .floor 7 ∧ 127 < (128 : Byte).toNat ∧ (up.stream 0).live = false ∧ ((withStream .closing).stream 0).state = .closing)
    ∧ ((withStream .idle).Taking .floor 7 ∧ ((withStream .idle).stream 0).live = true)
    ∧ (∀ p ∈ [(stalled .pending { record .playing with late := .stall }, HeadOutcome.wait),
        (stalled .ready (record .playing), .send (slot0 .ready)),
        (stalled .failed (record .playing), .gap (slot0 .failed) .readFailed)],
      p.1.Taking .floor 7 ∧ (p.1.stream 0).state = .playing ∧ (p.1.cadence 0).headWait = true
      ∧ (p.1.stream 0).owner = some 7
      ∧ ((p.1.stamp 10).setStream 0 { p.1.stream 0 with credit := min 255 ((p.1.stream 0).credit + 255) }).outcome 0 = p.2)
    := by decide +kernel

/-- A BR of page 0 that nothing answers, with the array link UP and DOWN, and one whose body fails. -/
theorem test_meets_DeclinedStationReadsAreForwarded :
    let f := message 1 0 7 readBody
    (up.TakingFrame .floor f ∧ frameKind f = 1 ∧ frameDst f ≠ up.straps.station ∧ up.array.linkUp = true
      ∧ blockReadOf f = some { tag := 9, volume := 0, start := 0, count := 2 }
      ∧ up.answerable { tag := 9, volume := 0, start := 0, count := 2 } = none)
    ∧ ({ up with array.linkUp := false } : State).array.linkUp = false
    ∧ blockReadOf (message 1 0 7 []) = none ∧ up.TakingFrame .floor (message 1 0 7 []) := by decide +kernel

theorem test_meets_StationReadsAreAnsweredLocally :
    let f := message 1 0 7 readBody
    let s := withSpan (spanOf .valid)
    s.TakingFrame .floor f ∧ frameKind f = 1 ∧ frameDst f ≠ s.straps.station
    ∧ blockReadOf f = some { tag := 9, volume := 0, start := 0, count := 2 }
    ∧ s.buffer.find { volume := 0, page := 0 / 256 } = some 0 ∧ s.buffer.span 0 = some (spanOf .valid)
    ∧ (spanOf .valid).checkFailed = false ∧ s.buffer.answers.length < 64 := by decide +kernel

/-- A BD and a DF for station 7, with the floor link UP and DOWN. -/
theorem test_meets_ArrayMessagesAreForwarded :
    (∀ k ∈ [2, 3], up.TakingFrame .array (message k 7 9 []) ∧ frameKind (message k 7 9 []) = BitVec.ofNat 8 k
      ∧ frameDst (message k 7 9 []) ≠ up.straps.station) ∧ up.floor.linkUp = true
    ∧ (let s : State := { up with floor.linkUp := false }; s.TakingFrame .array (message 2 7 9 []) ∧ s.floor.linkUp = false)
    := by decide +kernel

/-- An RN that fails, one for the part and one for all, of no span, a FILLING span and a resting one. -/
theorem test_meets_RewriteNoticesActAndPassOn :
    let w : Rewrite := { volume := 0, start := 0, count := 256 }
    (up.TakingFrame .array (message 4 1 9 []) ∧ frameKind (message 4 1 9 []) = 4 ∧ rewriteOf (message 4 1 9 []) = none)
    ∧ (rewriteOf (message 4 1 9 rewriteBody) = some w ∧ frameDst (message 4 1 9 rewriteBody) = up.straps.station
      ∧ rewriteOf (message 4 0xFFFF 9 rewriteBody) = some w
      ∧ frameDst (message 4 0xFFFF 9 rewriteBody) ≠ up.straps.station) ∧ up.covered w = []
    ∧ (∀ st ∈ [SpanState.filling fetch1, .valid], (withSpan (spanOf st)).TakingFrame .array (message 4 1 9 rewriteBody)
      ∧ (withSpan (spanOf st)).covered w = [(0, { volume := 0, page := 0 })]
      ∧ (withSpan (spanOf st)).buffer.span 0 = some (spanOf st)) := by decide +kernel

/-- A VALID span with a user, with a span to take and with none; with a SENDING user; with pins alone. -/
theorem test_meets_RewriteNotices_splits :
    let one : Span := { spanOf .valid with refs := [user] }
    let sent : Span := { spanOf .valid with refs := [{ user with sending := true }] }
    let s := withSpan one
    let full : State := { s with buffer.fresh := 32768 }
    let split (s : State) (x : Span) : State :=
      s.putSpan 0 { x with state := .stale, refs := x.refs.filter (fun r => r.sending) }
    (s.buffer.span 0 = some one ∧ one.refs.filter (fun r => !r.sending) ≠ []
      ∧ ((split s one).buffer.take.map Prod.fst) = some 1 ∧ (split full one).buffer.take = none)
    ∧ ((withSpan sent).buffer.span 0 = some sent ∧ sent.refs ≠ [] ∧ sent.refs.filter (fun r => !r.sending) = [])
    ∧ ({ spanOf .valid with pins := 1 } : Span).pins ≠ 0 := by decide +kernel

/-- A tag above 8,191, a tag of an old generation, and a tag whose continuation waits. -/
theorem test_meets_StaleBlockDataIsCounted :
    let s := withSpan (spanOf (.filling { fetch1 with waiting := true }))
    (up.Taking .array 9 ∧ up.currentTag (8192 : Half).toNat = none ∧ s.currentTag (515 : Half).toNat = none)
    ∧ (s.Taking .array 9 ∧ s.currentTag (3 : Half).toNat = some 0 ∧ s.buffer.fetch 0 = some { fetch1 with waiting := true }
      ∧ ({ fetch1 with waiting := true } : Fetch).waiting = true) := by decide +kernel

/-- The last two blocks of a page, in order. -/
theorem test_meets_BlockDataIsStoredInOrder :
    let f : Fetch := { fetch1 with base := 100, received := 154 }
    let s := withSpan (spanOf (.filling f))
    s.Taking .array 9 ∧ s.currentTag (3 : Half).toNat = some 0 ∧ s.buffer.span 0 = some (spanOf (.filling f))
    ∧ f.waiting = false ∧ (8204 : Nat) = 12 + 4096 * (2 : Byte).toNat ∧ (zeros 8192).length = 4096 * (2 : Byte).toNat
    ∧ (254 : Byte).toNat = f.base + f.received ∧ (254 : Byte).toNat + (2 : Byte).toNat ≤ 256 := by decide +kernel

/-- A BD out of order; a wrong total; a mismatch in each check mode; the end of a page; a short completion, with the port
OPEN and not. -/
theorem test_meets_FinalBlockDataEndsTheAttempt :
    let f : Fetch := { fetch1 with base := 253, received := 1 }
    let s := withSpan (spanOf (.filling f))
    let report : State := { s with tables.active.policy.checkMode := .report }
    let word := extendCheck f.check (([] : List Byte).take (4096 * (2 : Byte).toNat))
    (s.Taking .array 9 ∧ s.currentTag (3 : Half).toNat = some 0 ∧ s.buffer.span 0 = some (spanOf (.filling f))
      ∧ f.waiting = false)
    ∧ (253 : Byte).toNat ≠ f.base + f.received ∧ (254 : Byte).toNat = f.base + f.received
    ∧ (2 : Half).toNat ≠ f.received + (2 : Byte).toNat ∧ (3 : Half).toNat = f.received + (2 : Byte).toNat
    ∧ word = 0 ∧ word ≠ 1 ∧ s.tables.active.policy.checkMode = .refetch ∧ report.tables.active.policy.checkMode = .report
    ∧ report.Taking .array 9 ∧ report.currentTag (3 : Half).toNat = some 0
    ∧ f.base + (f.received + (2 : Byte).toNat) = 256 ∧ f.base + (f.received + (1 : Byte).toNat) ≠ 256
    ∧ s.array.quiesce = .opened ∧ (quiesced .quiescing s).array.quiesce ≠ .opened
    ∧ (quiesced .quiescing s).Taking .array 9 ∧ (quiesced .quiescing s).currentTag (3 : Half).toNat = some 0 := by
  decide +kernel

/-- A timeout at its expiry and before it, of a record with a referrer and failures left. -/
theorem test_meets_ReadTimeoutsFailTheAttempt :
    let x : Span := { spanOf (.filling { fetch1 with failures := 4 }) with refs := [user] }
    let s := withSpan x
    s.buffer.holder 3 = some 0 ∧ s.buffer.span 0 = some x ∧ fetch1.tag = some 3 ∧ fetch1.expiry = some 10
    ∧ 10 ≤ max s.now 10 ∧ max s.now 9 < 10 ∧ s.NoneArmed ∧ x.refs ≠ []
    ∧ 4 + 1 < s.tables.active.policy.retryLimit := by decide +kernel

/-- The failure that reaches the retry limit and the last one below it, a span without referrers, and a referrer's slot. -/
theorem test_meets_FailedAttempts :
    let last : Span := { spanOf (.filling { fetch1 with failures := 5 }) with refs := [user] }
    let limit := up.tables.active.policy.retryLimit
    up.NoneArmed ∧ (withSpan last).NoneArmed ∧ (withSpan last).buffer.span 0 = some last ∧ fetch1.tag = some 3
    ∧ limit ≤ 5 + 1 ∧ 4 + 1 < limit ∧ (spanOf (.filling fetch1)).refs = []
    ∧ ((playing .pending (record .playing)).window user.handle).slot user.slot = some (slot0 .pending) := by decide +kernel

theorem test_meets_PageCompletionMakesTheSpanValid :
    let s := withSpan (spanOf (.filling fetch1))
    s.NoneArmed ∧ s.buffer.span 0 = some (spanOf (.filling fetch1)) ∧ fetch1.tag = some 3
    ∧ (spanOf (.filling fetch1)).refill = false ∧ (spanOf (.filling fetch1)).refs = [] ∧ s.buffer.waiting = [] := by
  decide +kernel

/-- Completions with a referrer and without, under REFILL and not; a slot whose page is VALID and one whose page is not. -/
theorem test_meets_PageCompletion_forms :
    let x : Span := spanOf (.filling fetch1)
    let e : PageEntry := { key := x.key, first := 0, count := 1, span := some 0 }
    ([(false, [user]), (true, [user]), (true, [])].all fun (r, l) =>
      let y : Span := { x with refill := r, refs := l }
      (withSpan y).NoneArmed && (withSpan y).buffer.span 0 == some y) = true
    ∧ (withSpan (spanOf .valid)).buffer.span 0 = some (spanOf .valid) ∧ (withSpan x).buffer.span 0 = some x
    ∧ ({ slot0 .pending with pages := [e] } : Slot).pages = [e] ∧ (slot0 .pending).state = .pending
    ∧ (slot0 .ready).state ≠ .pending := by decide +kernel

/-- A PRIMING stream that is done and one that is not, without autoplay and with it, with a PAUSE mark and without; waits
that go on, send and gap. -/
theorem test_meets_WindowChanges :
    let p (st : SlotState) (a : Bool) : State := (playing st (record .playing)).setStream 0 { record .priming with autoplay := a }
    let m : State := ((withRule .tripped).setStream 0 { record .priming with autoplay := true, marks := 1 }).setWindow 0
      { slots := [slot0 .ready], sending := [], cursor := none }
    ([false, true].all fun a => ((p .ready a).stream 0).autoplay == a && ((p .ready a).stream 0).state == .priming
      && ((p .ready a).window 0).slots.map Slot.state == [.ready]) = true
    ∧ ((p .pending true).window 0).slots.map Slot.state = [.pending]
    ∧ m.markedWith (m.stream 0) .pause = true ∧ (p .ready true).markedWith ((p .ready true).stream 0) .pause = false
    ∧ (∀ q ∈ [(stalled .pending { record .playing with late := .stall }, HeadOutcome.wait),
        (stalled .ready (record .playing), .send (slot0 .ready)),
        (stalled .failed (record .playing), .gap (slot0 .failed) .readFailed)],
      (q.1.stream 0).state = .playing ∧ (q.1.cadence 0).headWait = true ∧ q.1.outcome 0 = q.2) := by decide +kernel

/-- The longest delay, one beyond it, a wrong length, a stale tag, and a waiting continuation. -/
theorem test_meets_DefersHoldThePage :
    let x : Span := { spanOf (.filling fetch1) with refs := [user] }
    let s := withSpan x
    let w := withSpan (spanOf (.filling { fetch1 with waiting := true }))
    (s.Taking .array 9 ∧ (1000000 : Word).toNat ≤ 1000000 ∧ 1000000 < (1000001 : Word).toNat ∧ (7 : Nat) ≠ 8)
    ∧ ((515 : Half) ≠ 0xFFFF ∧ s.currentTag (515 : Half).toNat = none)
    ∧ (w.Taking .array 9 ∧ w.currentTag (3 : Half).toNat = some 0 ∧ w.buffer.fetch 0 = some { fetch1 with waiting := true })
    ∧ (s.currentTag (3 : Half).toNat = some 0 ∧ s.buffer.span 0 = some x ∧ fetch1.waiting = false ∧ fetch1.tag = some 3
      ∧ s.NoneArmed ∧ x.refs ≠ [] ∧ 0 < (1 : Word).toNat) := by decide +kernel

/-- A DF for all with a record out, a delay of 0, and a span without referrers. -/
theorem test_meets_Defers_forms :
    let s := withSpan (spanOf (.filling fetch1))
    (s.Taking .array 9 ∧ s.NoneArmed ∧ s.buffer.issued = [0] ∧ s.currentTag (3 : Half).toNat = some 0 ∧ (3 : Half) ≠ 0xFFFF)
    ∧ s.buffer.span 0 = some (spanOf (.filling fetch1)) ∧ fetch1.tag = some 3 ∧ (0 : Word).toNat = 0
    ∧ (spanOf (.filling fetch1)).refs = [] ∧ [user] ≠ [] := by decide +kernel

/-- A not-before time and an issue hold, at their time and before it. -/
theorem test_meets_FetchTimersActAtTheirTime :
    let f : Fetch := { fetch1 with state := .deferred, tag := none, expiry := none, notBefore := some 10 }
    let s := withSpan (spanOf (.filling f))
    s.buffer.span 0 = some (spanOf (.filling f)) ∧ s.buffer.fetch 0 = some f ∧ f.state = .deferred
    ∧ f.notBefore = some 10 ∧ 10 ≤ max s.now 10 ∧ max s.now 9 < 10
    ∧ s.fetch.holdUntil = some 1000000 ∧ 1000000 ≤ max s.now 1000000 ∧ max s.now 999999 < 1000000 := by decide +kernel

/-- A QR in each quiesce state, with a read out and with none, with a grant waiting and with none; a QE in each. -/
theorem test_meets_QuiesceRequestsAndEnds :
    let granted : State := { quiesced .quiesced up with array.grantWaiting := some 9 }
    let busy := withSpan (spanOf (.filling fetch1))
    (∀ q ∈ [Quiesce.opened, .quiescing, .quiesced], (quiesced q up).Taking .array 9 ∧ (quiesced q up).array.quiesce = q)
    ∧ (granted.Taking .array 9 ∧ granted.grantPlaced = true ∧ (quiesced .quiesced up).grantPlaced = false)
    ∧ (up.NoneArmed ∧ up.fetch.continuations = [] ∧ up.issuedCount = 0)
    ∧ (busy.Taking .array 9 ∧ busy.array.quiesce = .opened ∧ busy.NoneArmed ∧ busy.fetch.continuations = []
      ∧ busy.issuedCount ≠ 0) := by decide +kernel

/-- A continuation that waits when a QR leaves OPEN: its record holds a tag, with a referrer and without. -/
theorem test_meets_Quiesce_continuations :
    let f : Fetch := { fetch1 with waiting := true, expiry := none }
    let s (l : List Referrer) : State :=
      { withSpan { spanOf (.filling f) with refs := l } with fetch := { up.fetch with continuations := [0] } }
    (∀ l ∈ [[], [user]], (s l).Taking .array 9 ∧ (s l).array.quiesce = .opened ∧ (s l).fetch.continuations ≠ []
      ∧ (s l).buffer.span 0 = some { spanOf (.filling f) with refs := l } ∧ f.tag = some 3)
    ∧ (s [user]).leaveOpen.fetch.continuations = [] ∧ (s [user]).leaveOpen.issuedCount = 0
    ∧ (s [user]).leaveOpen.buffer.fetch 0
      = some { f with state := .queued, tag := none, received := 0, issueTime := none, waiting := false }
    ∧ (s []).leaveOpen.buffer.span 0 = none := by decide +kernel

/-- A drain that ends with 15 messages waiting and with 16, and one that goes on. -/
theorem test_meets_TheDrainEndsWithAGrant :
    let q (n : Nat) : State := { quiesced .quiescing up with array.control := List.replicate n (.qg 9) }
    ((q 15).array.quiesce = .quiescing ∧ (q 15).issuedCount = 0 ∧ (q 15).NoneArmed ∧ (q 15).array.control.length < 16)
    ∧ ((q 16).array.quiesce = .quiescing ∧ (q 16).issuedCount = 0 ∧ (q 16).NoneArmed ∧ 16 ≤ (q 16).array.control.length)
    ∧ ¬ (up.array.quiesce = .quiescing ∧ up.issuedCount = 0) := by decide +kernel

/-- An edit that is made, one that fails, and one during the commit walk. -/
theorem test_meets_StagingVerbsEditTheStagedBank :
    up.Taking .array 9 ∧ up.walking = false ∧ (walk 0 up).walking = true ∧ (walk 0 up).Taking .array 9
    ∧ up.tables.staged.unstageStation 12 7 = .ok { small with stations := [] }
    ∧ up.tables.staged.unstageStation 12 8 = .error .noSuch := by
  refine ⟨by decide, by decide, by decide, by decide, rfl, rfl⟩

/-- Each bad field at its boundary, a new station, one that is present, and a full table. -/
theorem test_meets_StageStationChecksItsEntry :
    let bad (n : Half) (c l : Byte) : Prop :=
      n = 0 ∨ n = 0xFFFF ∨ n = up.straps.station ∨ 7 < c.toNat ∨ l = 0 ∨ 8 < l.toNat
    let full : List StationEntry :=
      (List.range 64).map fun i => { station := BitVec.ofNat 16 (i + 100), shedClass := 0, limit := 1 }
    let filled : State := { up with tables.staged.stations := full }
    (up.Taking .array 9 ∧ up.walking = false ∧ bad 0 0 1 ∧ bad 0xFFFF 0 1 ∧ bad 1 0 1 ∧ bad 7 8 1 ∧ bad 7 0 0 ∧ bad 7 0 9)
    ∧ (¬ bad 0xFFFE 7 8 ∧ up.tables.staged.station 7 ≠ none ∧ up.tables.staged.station 0xFFFE = none
      ∧ up.tables.staged.stations.length < 64)
    ∧ (filled.Taking .array 9 ∧ filled.walking = false ∧ filled.tables.staged.station 7 = none
      ∧ 64 ≤ filled.tables.staged.stations.length) := by decide +kernel

theorem test_meets_DiscardStageCopiesTheActiveBank :
    up.Taking .array 9 ∧ up.walking = false ∧ (walk 0 up).walking = true ∧ (walk 0 up).Taking .array 9 := by decide

/-- A clip and a station that are staged and not; an offer that passes, one with a bad field, one with too few extents. -/
theorem test_meets_StagedBankEdits :
    (small.clip 1 ≠ none ∧ small.clip 3 = none ∧ small.station 7 ≠ none ∧ small.station 8 = none)
    ∧ (offer1.lengthOk 52 = true ∧ offer1.fieldsOk = true ∧ offer1.extentsSuffice = true ∧ offer1.lengthOk 51 = false
      ∧ { offer1 with clipId := 0 }.fieldsOk = false
      ∧ { offer1 with primary.frameCount := 129 }.fieldsOk = true
      ∧ { offer1 with primary.frameCount := 129 }.extentsSuffice = false ∧ small.clips.length < 1024)
    ∧ (let o : ClipOffer := { offer1 with clipId := 5000 }
       let full : Bank := { small with clips := (List.range 1024).map fun i => { clip1 with clipId := BitVec.ofNat 32 i } }
       full.clip o.clipId = none ∧ 1024 ≤ full.clips.length)
    ∧ ((15 : Byte).toNat ≤ 15 ∧ 1 ≤ (1000 : Half).toNat ∧ (1000 : Half).toNat ≤ 1000 ∧ (50 : Byte).toNat ≤ 50
      ∧ (32192 : Word).toNat ≤ 32192)
    ∧ (sourceOf 4 = some .quiesced ∧ levelOf 2 = some .low ∧ actionOf 3 = some .pause ∧ 3 < (4 : Byte).toNat
      ∧ (60000000 : Word).toNat ≤ 60000000 ∧ (59999999 : Word).toNat < (60000000 : Word).toNat) := by decide +kernel

/-- The two lengths at and beside the right one, and each offer of a clip as the statement judges it. -/
theorem test_meets_StagedBankEdits_clips :
    let e : ExtentOffer := { start := 0, pages := 1 }
    let two : RenditionOffer := { offer1.primary with extentCount := 2, extents := [e, { e with start := 256 }] }
    (∀ x ∈ [(offer1, 52), ({ offer1 with proxy := some two }, 88)], x.1.lengthOk x.2 = true ∧ x.1.fieldsOk = true
      ∧ x.1.extentsSuffice = true ∧ x.1.lengthOk (x.2 + 1) = false)
    ∧ (∀ o ∈ [{ offer1 with clipId := 0 }, { offer1 with numerator := 121 }, { offer1 with denominator := 1002 },
        { offer1 with firstTimecode := 2147483648 }, { offer1 with primary.frameBlocks := 16385 },
        { offer1 with primary.extentCount := 65 }, { offer1 with primary.extents := [{ e with start := 1 }] },
        { offer1 with primary := { two with extents := [e, e] } },
        { offer1 with proxy := some { two with frameCount := 5 } }], o.fieldsOk = false)
    ∧ ({ offer1 with numerator := 120, firstTimecode := 2147483647 } : ClipOffer).fieldsOk = true
    ∧ ({ offer1 with primary.frameCount := 128 } : ClipOffer).extentsSuffice = true := by decide +kernel

/-- A rule offer with each comparator, its settings at the boundary, and one that fails each check. -/
theorem test_meets_StagedBankEdits_rules :
    let o : RuleOffer := { rule := 3, enable := 1, source := 4, level := 2, action := 3, classes := 1, comparator := 0,
                           debounce := 0, high := 0, low := 0 }
    (∀ x ∈ [o, { o with comparator := 1, debounce := 1, high := 60000000, low := 1 },
        { o with comparator := 2, debounce := 1, high := 2, low := 1 },
        { o with comparator := 3, debounce := 1, high := 512, low := 0 }, { o with enable := 0, source := 1 }],
      (small.stageRule 24 x).toOption.isSome = true)
    ∧ (∀ x ∈ [{ o with rule := 4 }, { o with enable := 2 }, { o with source := 5 }, { o with level := 3 },
        { o with action := 0 }, { o with comparator := 4 }, { o with comparator := 1, debounce := 0, high := 2, low := 1 },
        { o with comparator := 2, debounce := 1, high := 60000001, low := 1 },
        { o with comparator := 2, debounce := 1, high := 2, low := 0 },
        { o with comparator := 3, debounce := 1, high := 513, low := 0 },
        { o with comparator := 3, debounce := 1, high := 1, low := 1 }],
      (small.stageRule 24 x).toOption = none)
    ∧ (small.stageRule 23 o).toOption = none := by decide +kernel

/-- A commit that walks, waits for a rule, has too low a ceiling, and swaps with the ceiling at the sum. -/
theorem test_meets_CommitChecksAndSwaps :
    let c (n : Nat) : State := { withStream .idle with tables.staged.policy.ceiling := n }
    ((walk 0 up).Taking .array 9 ∧ (walk 0 up).walking = true)
    ∧ ((withRule .tripped).Taking .array 9 ∧ (withRule .tripped).walking = false ∧ (withRule .tripped).ruleState 0 = .tripped)
    ∧ ((c 7).Taking .array 9 ∧ (c 7).walking = false ∧ (∀ r : RuleNumber, (c 7).ruleState r ≠ .tripped)
      ∧ (c 7).tables.staged.policy.ceiling < (c 7).reservationSum)
    ∧ ((c 8).Taking .array 9 ∧ (∀ r : RuleNumber, (c 8).ruleState r ≠ .tripped)
      ∧ (c 8).reservationSum ≤ (c 8).tables.staged.policy.ceiling)
    ∧ (ruled.shed.rules[(0 : RuleNumber)].enable = true ∧ ruled.shed.rules[(1 : RuleNumber)].enable = false
      ∧ (quiesced .quiesced up).level .quiesced = .high ∧ up.level .quiesced = .low) := by decide +kernel

/-- The walk at its first and its last handle and at its end; a station, a clip and a rendition that are gone, a shorter
rendition, an edition that is the same and one that is another. -/
theorem test_meets_TheCommitWalkVisitsAndEnds :
    let s := walk 0 (withStream .idle)
    let other (b : Bank) : State := { s with tables.active := b }
    (up.tables.walk = .idle ∧ s.tables.walk = .walking 0 9 5 ∧ (0 : Nat) = (0 : Handle).1 ∧ 127 = (127 : Handle).1)
    ∧ ((up.stream 0).state = .closed ∧ (s.stream 0).owner = some 7 ∧ s.tables.active.station 7 ≠ none
      ∧ (s.stream 0).state = .idle ∧ (other { small with stations := [] }).tables.active.station 7 = none)
    ∧ ((s.stream 0).binding = some (1, 1) ∧ (other { small with clips := [] }).tables.active.clip 1 = none
      ∧ s.tables.active.clip 1 = some clip1 ∧ clip1.record .primary = some primary1
      ∧ (s.stream 0).position < primary1.frameCount ∧ clip1.edition = some 1
      ∧ ({ clip1 with proxy := none } : Clip).record .proxy = none ∧ primary1.frameCount ≤ 4
      ∧ ({ clip1 with edition := some 2 } : Clip).edition = some 2)
    ∧ ((walk 128 up).tables.walk = .walking 128 9 5 ∧ (walk 128 up).array.linkUp = true
      ∧ (walk 128 up).array.control.length < 16 ∧ (walk 128 State.reset).array.linkUp = false
      ∧ 16 ≤ ({ walk 128 up with array.control := List.replicate 16 (.qg 9) } : State).array.control.length) := by
  decide +kernel

/-- A stream withdrawn with a frame in its sending set and with none. -/
theorem test_meets_CommitWalk_withdrawals :
    let gone (s : State) : State := (((s.setStream 0 { s.stream 0 with
      autoplay := false, probe := none, probeExpiry := none, withdrawn := true, state := .closing,
      pauseReason := none }).stopCadence 0).detachWindow 0)
    let sent : State := (withStream .playing).setWindow 0 { slots := [], sending := [slot0 .sending], cursor := none }
    (sent.stream 0).owner = some 7 ∧ ((gone sent).window 0).sending ≠ []
    ∧ ((gone (withStream .idle)).window 0).sending = [] := by decide +kernel

/-- Re-binds to a second edition: each state, a raise that fits and one that does not, a proxy that is gone, a due time and
none, another rate, the same geometry and another. -/
theorem test_meets_CommitWalk_rebinds :
    let k (c : Clip) : Clip := { c with edition := some 2 }
    let bank (c : Clip) (s : State) : State :=
      { s with tables := { s.tables with active := { small with clips := [k c] }, retired := [clip1] } }
    let large : Clip := { clip1 with primary.pageBound := 5 }
    let moved : Clip := { clip1 with numerator := 25, primary.volume := 9 }
    let s := bank clip1 (withStream .idle)
    let p := bank moved (playing .pending { record .playing with late := .stall })
    (∀ c ∈ [clip1, large, moved, { clip1 with proxy := none }], (bank c (withStream .idle)).tables.active.clip 1 = some (k c)
      ∧ ((bank c (withStream .idle)).stream 0).binding = some (1, 1) ∧ (k c).edition = some 2)
    ∧ (∀ st ∈ [StreamState.idle, .negotiating, .priming, .primed, .playing, .paused],
      ((bank clip1 (withStream st)).stream 0).state = st)
    ∧ ((s.stream 0).effDepth * clip1.bound .primary = 8 ∧ (s.stream 0).reservation = 8
      ∧ (s.stream 0).effDepth * large.bound .primary = 20 ∧ s.tables.active.policy.ceiling < s.reservationSum - 8 + 20)
    ∧ (clip1.proxy ≠ none ∧ ({ clip1 with proxy := none } : Clip).proxy = none)
    ∧ ((p.stream 0).windowed = true ∧ (p.cadence 0).rate ≠ some (25, 1) ∧ (p.cadence 0).nextDue = some 5
      ∧ ((bank moved (stalled .pending (record .playing))).cadence 0).nextDue = none)
    ∧ (p.boundRecord (p.stream 0) = some primary1 ∧ (k clip1).record .primary = some primary1
      ∧ ((k moved).record .primary).map RenditionRecord.volume = some 9) := by decide +kernel

/-- A clear of rule 4, of a rule that has not tripped, of one that still matches, and of one that does not. -/
theorem test_meets_ClearShedAnswersTheFirstResult :
    (up.Taking .array 9 ∧ 3 < (4 : Byte).toNat ∧ (3 : Byte).toNat = (3 : RuleNumber).1 ∧ up.ruleState 3 ≠ .tripped)
    ∧ (let s := quiesced .quiesced (withRule .tripped)
       s.Taking .array 9 ∧ s.ruleState 0 = .tripped ∧ s.level (s.rule 0).source = (s.rule 0).level)
    ∧ (let s := withRule .tripped
       s.Taking .array 9 ∧ s.ruleState 0 = .tripped ∧ s.level (s.rule 0).source ≠ (s.rule 0).level) := by decide +kernel

/-- The reversals: a stream paused with reason SHED without a mark and with one, a depth that fits and one that does not,
and a demoted stream that fits, that does not, and that falls. -/
theorem test_meets_ClearShed_reversals :
    let r : Stream := { record .paused with pauseReason := some .shed, demoted := true, rendition := .proxy }
    let on (x : Stream) : State := (withRule .tripped).setStream 0 x
    let deep : Stream := { r with effDepth := 2, reservation := 4 }
    let fits (s : State) (wanted : Nat) : Prop :=
      s.reservationSum - (s.stream 0).reservation + wanted ≤ s.tables.active.policy.ceiling
    ((on r).markedWith r .pause = false ∧ (on { r with marks := 1 }).markedWith { r with marks := 1 } .pause = true
      ∧ (on r).boundClip r = some clip1)
    ∧ (deep.effDepth < deep.depth ∧ fits (on deep) (4 * clip1.bound .proxy)
      ∧ ¬ fits ((on deep).setStream 1 { r with reservation := 10 }) (4 * clip1.bound .proxy))
    ∧ (r.demoted = true ∧ (record .paused).demoted = false ∧ fits (on deep) (2 * clip1.bound .primary)
      ∧ 4 * clip1.bound .primary ≤ r.reservation
      ∧ ¬ fits ((on { r with reservation := 4 }).setStream 1 { r with reservation := 10 }) (4 * clip1.bound .primary)) := by
  decide +kernel

/-- The READ verbs on what is found and what is not. -/
theorem test_meets_ManagementReadsAnswerTheState :
    let s := withStream .idle
    (s.Taking .array 9 ∧ (s.tables.active.clip 1).map (fun x => (FoundIn.active, x)) = some (.active, clip1)
      ∧ s.tables.active.clip 3 = none ∧ s.tables.lookup 1 1 = some (.active, clip1) ∧ s.tables.lookup 1 2 = none)
    ∧ (127 < (128 : Byte).toNat ∧ Names 0 0 ∧ Names 127 127 ∧ (s.stream 0).live = true ∧ (s.stream 127).live = false) := by
  decide +kernel

theorem test_meets_ResetStreamsClosesEveryStream :
    let s := withStream .playing
    s.Taking .array 9 ∧ (∀ h : Handle, (s.stream h).state = .closed → (s.stream h).reservation = 0)
    ∧ ((s.stamp 10).stream 0).live = true ∧ ((s.stamp 10).stream 0).owner = some 7 := by decide +kernel

/-- A due time before it is reached and at it; an empty window; a head in each state, with credit and without. -/
theorem test_meets_DueTimesDecideOnTheHead :
    let r := record .playing
    let poor : Stream := { r with credit := 0 }
    let due (s : State) (time : Nat) : Prop :=
      (s.stream 0).state = .playing ∧ (s.cadence 0).headWait = false ∧ (s.cadence 0).nextDue = some 5 ∧ 5 ≤ max s.now time
    (∀ st ∈ [SlotState.failed, .ready, .pending], due (playing st r) 5 ∧ ((playing st r).window 0).slots = [slot0 st])
    ∧ ¬ due (playing .ready r) 4 ∧ (due ((playing .ready r).setWindow 0 Window.empty) 5)
    ∧ (1 ≤ r.credit ∧ r.late = .skip ∧ poor.credit = 0 ∧ ((playing .ready poor).stream 0).credit = 0
      ∧ ((playing .pending { r with late := .stall }).stream 0).late = .stall) := by decide +kernel

theorem test_meets_DeliveryEventsAdvanceTheStream :
    let s := playing .ready (record .playing)
    (s.window 0).slots = [slot0 .ready] ∧ (s.stream 0).state = .playing ∧ (s.cadence 0).headWait = false
    ∧ (s.cadence 0).rate = some (30, 1) ∧ (s.stream 0).owner = some 7 ∧ s.RoomFor 1 := by decide +kernel

/-- A gapped head that ends its clip, one that starves its stream, and one that does neither. -/
theorem test_meets_DeliveryEvents_gaps :
    let gap (x : Stream) (l : List Slot) (f : Option Nat) : State := ((playing .failed x).setWindow 0
      { slots := l, sending := [], cursor := f }).deliverGap 0 (slot0 .failed) .readFailed
    let next : Slot := { slot0 .pending with serial := 1, frame := 1 }
    let one : State → StreamState × Option PauseReason := fun s => ((s.stream 0).state, (s.stream 0).pauseReason)
    one (gap (record .playing) [slot0 .failed] none) = (.idle, none)
    ∧ one (gap { record .playing with gaps := up.tables.active.policy.starveLimit - 1 } [slot0 .failed, next] (some 2))
      = (.paused, some .starved)
    ∧ one (gap { record .playing with gaps := up.tables.active.policy.starveLimit - 1, late := .stall }
        [slot0 .failed, next] (some 2)) = (.playing, none) := by decide +kernel

/-- Each message in transmission, and the states of the stream of a last segment. -/
theorem test_meets_TransmissionEndsMoveTheWorkOn :
    let bd : AnswerData := { dst := 7, src := 0, tag := 9, offset := 0, count := 2, final := true, stale := false,
                             total := 2, check := 0, data := [] }
    let b : LocalAnswer := { serial := 0, station := 7, target := 0, tag := 9, span := 0, offset := 0, count := 2,
                             handed := 2, ready := none }
    let s : State := { up with tx.sending := some (.answer 0 bd), buffer.answers := [b] }
    let d : Delivery := { handle := 0, dst := 7, slot := 0, frame := 0, timecode := 0, proxy := false, segments := 1,
                          next := 1, abandoned := false }
    up.tx.sending = none ∧ s.localAnswer 0 = some b ∧ bd.final = true ∧ ({ bd with final := false } : AnswerData).final = false
    ∧ (up.segment { d with next := 0 }).last = true ∧ (up.segment { d with next := 0, segments := 2 }).last = false
    ∧ d.abandoned = false
    ∧ (∀ st ∈ [StreamState.closing, .priming, .primed, .playing, .paused], ((withStream st).stream 0).state = st)
    ∧ (let p := (withStream .playing).topUp 0; (p.window 0).slots = [] ∧ (p.window 0).sending = []) := by decide +kernel

/-- A PLAYING and a PAUSED stream that still hold a slot after top-up, with a head that waits, one to send and one to
gap; a local answer that goes on, one that ends, and its span used by others or not, VALID or STALE. -/
theorem test_meets_Transmissions_settle_and_answer :
    let b : LocalAnswer := { serial := 0, station := 7, target := 0, tag := 9, span := 0, offset := 0, count := 4,
                             handed := 0, ready := none }
    let pinned (st : SpanState) (n : Nat) : Span := { spanOf st with pins := n }
    let poor : Stream := { record .playing with credit := 0, late := .stall }
    (∀ q ∈ [(stalled .ready poor, HeadOutcome.wait), (stalled .ready (record .playing), .send (slot0 .ready)),
        (stalled .failed (record .playing), .gap (slot0 .failed) .readFailed)],
      (q.1.stream 0).state = .playing ∧ (q.1.cadence 0).headWait = true ∧ ((q.1.topUp 0).window 0).slots ≠ []
      ∧ (q.1.topUp 0).outcome 0 = q.2)
    ∧ ((playing .ready (record .playing)).cadence 0).headWait = false
    ∧ (let p := (playing .ready (record .playing)).setStream 0 (record .paused)
       (p.stream 0).state = .paused ∧ ((p.topUp 0).window 0).slots ≠ [])
    ∧ (b.handed + min 2 (b.count - b.handed) ≠ b.count
      ∧ { b with handed := 3 }.handed + min 2 ({ b with handed := 3 }.count - { b with handed := 3 }.handed) = b.count)
    ∧ (∀ st ∈ [SpanState.valid, .stale], ∀ n ∈ [1, 2], (withSpan (pinned st n)).buffer.span b.span = some (pinned st n))
    ∧ (1 < (pinned .valid 2).pins ∧ ¬ ((pinned .valid 1).refs ≠ [] ∨ 1 < (pinned .valid 1).pins)) := by decide +kernel

/-- Links UP and DOWN, usable straps and others, an MN in the transmit queue. -/
theorem test_meets_LinksGoDownAndComeUp :
    up.linkUp .array = true ∧ State.reset.linkUp .array = false ∧ up.strapsUsable = true
    ∧ (State.resetWith { station := 0, etherType := 0x0600 }).strapsUsable = false
    ∧ (State.resetWith { station := 0xFFFF, etherType := 0x0600 }).strapsUsable = false
    ∧ (State.resetWith { station := 1, etherType := 0x05FF }).strapsUsable = false
    ∧ up.array.linkUp = true ∧ up.floor.linkUp = true
    ∧ ({ up with array.control := [.mn .ready false] } : State).noticeOut = true := by decide

/-- The loss of the array link with reads out and with none, in QUIESCED and in OPEN; a record with a referrer and one
without. -/
theorem test_meets_ArrayLoss_returns :
    let s (l : List Referrer) : State := withSpan { spanOf (.filling fetch1) with refs := l }
    ((quiesced .quiesced up).array.linkUp = true ∧ (quiesced .quiesced up).array.quiesce = .quiesced
      ∧ up.array.quiesce ≠ .quiesced ∧ up.buffer.issued = [])
    ∧ (∀ l ∈ [[], [user]], (s l).buffer.issued = [0] ∧ fetch1.tag = some 3
      ∧ (s l).buffer.span 0 = some { spanOf (.filling fetch1) with refs := l })
    ∧ (s [user]).returnIssued.buffer.fetch 0
      = some { fetch1 with state := .queued, tag := none, received := 0, issueTime := none, expiry := none }
    ∧ (s []).returnIssued.buffer.span 0 = none := by decide +kernel

/-- A grant, an answer and a notice that wait, with 15 messages queued and with 16; a key that waits. -/
theorem test_meets_WaitingMessagesAndKeysMoveOn :
    let q (n : Nat) (s : State) : State := { s with array.control := List.replicate n (.qg 9) }
    let granted : State := { up with array.grantWaiting := some 9 }
    let m : ManageAnswer := { dst := 9, req := 5, verb := 8, result := .ok, walking := false, generation := 1, body := .empty }
    ((q 15 granted).array.grantWaiting = some 9 ∧ (q 15 granted).array.control.length < 16
      ∧ ¬ (q 16 granted).array.control.length < 16)
    ∧ (up.array.grantWaiting = none ∧ ({ up with responder.waiting := some m } : State).responder.waiting = some m)
    ∧ (up.responder.waiting = none ∧ up.responder.notices = [.ready] ∧ (∀ x ∈ (q 15 up).array.control, x.isNotice = false))
    ∧ (let w : WaitingKey := { key := { volume := 0, page := 0 }, slots := [user] }
       let s : State := { up with buffer.waiting := [w] }
       s.buffer.waiting = [w] ∧ s.buffer.take.isSome = true
       ∧ { s.buffer with fresh := 32768 }.take = none) := by decide +kernel

/-- Transmitters that are free and not, with a control message, a station's read and a frame to go on with. -/
theorem test_meets_TransmittersChooseInOrder :
    let d : Delivery := { handle := 0, dst := 7, slot := 0, frame := 0, timecode := 0, proxy := false, segments := 2,
                          next := 1, abandoned := false }
    let s : State := { up with tx.current := some d, tx.turn := .frame }
    State.reset.arrayFree = false ∧ State.reset.floorFree = false ∧ up.arrayFree = true ∧ up.floorFree = true
    ∧ up.array.control = [] ∧ (quiesced .quiescing up).array.quiesce ≠ .opened ∧ (quiesced .quiescing up).arrayFree = true
    ∧ (s.floorFree = true ∧ s.tx.control = [] ∧ s.tx.current = some d ∧ d.next < d.segments ∧ s.tx.turn = .frame
      ∧ s.tx.turns = []) := by decide +kernel

/-- An OPEN port with a turn of each class; a continuation, and a queued record with the hold ended. -/
theorem test_meets_Transmitters_reads :
    let q : Fetch := { fetch1 with state := .queued, tag := none, issueTime := none, expiry := none, firstIssue := none }
    let x : Span := { spanOf (.filling { fetch1 with waiting := true }) with refs := [user] }
    let w : State := { withSpan x with fetch.continuations := [0] }
    let s : State := { withSpan (spanOf (.filling q)) with fetch.holdUntil := none, floor.toArray := [[]] }
    (∀ t ∈ [ArrayTurn.own, .forwarded], let z : State := { s with array.turn := t }
      z.arrayFree = true ∧ z.array.control = [] ∧ z.array.quiesce = .opened ∧ z.array.turn = t ∧ z.floor.toArray = [[]]
      ∧ z.fetchTurn.isSome = true)
    ∧ (up.fetchTurn = none ∧ up.fetch.continuations = [] ∧ up.fetch.holdUntil ≠ none)
    ∧ (w.fetch.continuations = [0] ∧ w.buffer.span 0 = some x ∧ w.fetchTurn.isSome = true)
    ∧ (s.fetch.continuations = [] ∧ s.fetch.holdUntil = none ∧ s.NoneArmed
      ∧ (0, spanOf (.filling q)) ∈ s.buffer.spans ∧ q.state = .queued
      ∧ s.buffer.holder 0 = none ∧ (withSpan x).buffer.holder 3 ≠ none) := by decide +kernel

/-- The floor transmitter with a frame and block data of each source to send, and with one of the two alone. -/
theorem test_meets_Transmitters_floor :
    let d : Delivery := { handle := 0, dst := 7, slot := 0, frame := 0, timecode := 0, proxy := false, segments := 1,
                          next := 0, abandoned := false }
    let bd : AnswerData := { dst := 7, src := 0, tag := 9, offset := 0, count := 2, final := true, stale := false,
                             total := 2, check := 0, data := [] }
    let b : LocalAnswer := { serial := 4, station := 7, target := 0, tag := 9, span := 0, offset := 0, count := 2,
                             handed := 2, ready := some bd }
    let s (q : List Delivery) (turns : List TurnSource) (turn : FloorTurn) : State :=
      { playing .ready (record .playing) with
        tx.queue := q, tx.turns := turns, tx.turn := turn, array.toFloor := [[]], buffer.answers := [b] }
    (∀ q ∈ [[], [d]], ∀ l ∈ [[], [TurnSource.forwarding], [.answer 4]], ∀ t ∈ [FloorTurn.frame, .block],
      (s q l t).floorFree = true ∧ (s q l t).tx.control = [] ∧ (s q l t).tx.current = none ∧ (s q l t).tx.queue = q
      ∧ (s q l t).tx.turns = l ∧ (s q l t).tx.turn = t)
    ∧ (s [d] [] .frame).buffer.answers.find? (fun a => a.serial == 4) = some b
    ∧ ((s [d] [] .frame).window d.handle).slot d.slot = some (slot0 .ready) := by decide +kernel

/-- The samples at the boundary of each level and run. -/
theorem test_meets_ComparatorsFollowTheirThresholds :
    let x : Settings := { high := 20, low := 10, debounce := 3 }
    19 < x.high ∧ x.high ≤ 20 ∧ 1 + 1 < x.debounce ∧ x.debounce ≤ 2 + 1 ∧ x.low < 11 ∧ 10 ≤ x.low := by decide

/-- A rule that trips and reaches stream 0, with 31 notices waiting and with 32; and a source at no match level. -/
theorem test_meets_TrippedRulesMarkTheStreamsTheyReach :
    let s := withRule .armed
    let q (n : Nat) : State := { s with responder.notices := List.replicate n .ready }
    ((q 31).responder.notices.length < 32 ∧ 32 ≤ (q 32).responder.notices.length)
    ∧ ((s.stream 0).state ≠ .closed ∧ (s.stream 0).state ≠ .faulted ∧ (s.stream 0).owner = some 7
      ∧ s.tables.active.station 7 = some { station := 7, shedClass := 0, limit := 2 }
      ∧ (s.rule 0).classes.getLsbD 0 = true)
    ∧ (∀ q : RuleNumber, s.ruleState q = .armed → (s.rule q).source = .quiesced → s.level .quiesced ≠ (s.rule q).level)
    ∧ up.NoneArmed := by decide +kernel

/-- The actions on a stream: each state, a depth to halve and one that is halved, a proxy that is lighter and one that is
too heavy, and a window of more slots than the depth. -/
theorem test_meets_TrippedRules_actions :
    let heavy : Clip := { clip1 with proxy := some { proxy1 with pageBound := 5 } }
    let s := withStream .playing
    let r := s.stream 0
    let other : State := { s with tables := { s.tables with active := { small with clips := [heavy] } } }
    let l : List Slot := (List.range 3).map fun i => { slot0 .pending with serial := i, frame := i }
    let w : State := ((s.setStream 0 { r with effDepth := 2 }).setWindow 0 { slots := l, sending := [], cursor := some 3 })
    (∀ st ∈ [StreamState.idle, .negotiating, .priming, .primed, .playing, .paused, .closing],
      ((withStream st).stream 0).state = st ∧ (withStream st).boundClip ((withStream st).stream 0) = some clip1)
    ∧ (r.effDepth ≠ max 1 (r.depth / 2) ∧ ({ r with effDepth := 2 } : Stream).effDepth = max 1 (r.depth / 2))
    ∧ (r.rendition = .primary ∧ clip1.proxy = some proxy1 ∧ r.effDepth * proxy1.pageBound ≤ r.reservation
      ∧ other.boundClip r = some heavy ∧ r.reservation < r.effDepth * 5
      ∧ other.tables.active.policy.ceiling < other.reservationSum - r.reservation + r.effDepth * 5)
    ∧ ((w.window 0).slots = l.take 2 ++ l.drop 2 ∧ (l.take 2).length = (w.stream 0).effDepth - (w.window 0).sending.length
      ∧ (s.window 0).slots = []) := by decide +kernel

/-- An ARMED rule at its match level, one of another source, and one at the other level; samples that move a comparator
and that do not; an entry into QUIESCED, an exit and neither. -/
theorem test_meets_TrippedRules_transitions :
    let s := ruleOn .tags .low .armed
    let high (v : Nat) : Comparator := up.pressure.tags.sample { high := 0, low := 0, debounce := 1 } v
    ((s.rule 0).source = .tags ∧ s.ruleState 0 = .armed ∧ s.level .tags = (s.rule 0).level
      ∧ (s.transition .tags).ruleState 0 = .tripped)
    ∧ ((ruleOn .tags .high .armed).level .tags ≠ ((ruleOn .tags .high .armed).rule 0).level
      ∧ (ruleOn .lat1 .low .armed |>.rule 0).source ≠ .tags ∧ (ruleOn .tags .low .tripped).ruleState 0 ≠ .armed)
    ∧ ((high 0).level ≠ up.pressure.tags.level ∧ (up.pressure.tags.sample up.tables.active.shed.tags 0).level
      = up.pressure.tags.level)
    ∧ ¬ (Quiesce.quiesced = .quiesced ↔ up.array.quiesce = .quiesced)
    ∧ ¬ (Quiesce.opened = .quiesced ↔ (quiesced .quiesced up).array.quiesce = .quiesced)
    ∧ (Quiesce.quiescing = .quiesced ↔ up.array.quiesce = .quiesced) := by decide +kernel

/-- A comparator whose settings a COMMIT changes starts its run again; another keeps it (R167). -/
theorem test_meets_CommitChecksAndSwaps_runs :
    let staged : Bank := { small with shed := { small.shed with tags := { small.shed.tags with debounce := 9 } } }
    let s : State := { up with
      tables := { up.tables with staged := staged }
      pressure := { up.pressure with tags := { up.pressure.tags with run := 1 }, lat1 := { up.pressure.lat1 with run := 1 } } }
    let p := (after (.commit (at10 9 8) 5) s).pressure
    (p.tags.run, p.lat1.run) = (0, 1) := by decide +kernel

/-- The header checks at their boundaries: a frame of 22 bytes, one cut short, a length of 8,208 and of 8,209, another
Ethertype, kinds at the ends of their ranges and beyond them; links that hold at their bounds and not below them. -/
theorem test_meets_LinkState_checks :
    let cut (n len : Nat) : Frame := zeros 12 ++ bytes2 0x0600 ++ bytes1 0x10 ++ zeros 1 ++ bytes2 1 ++ bytes2 7
      ++ bytes2 len ++ zeros n
    (up.headerOk .floor (cut 0 0) = true ∧ up.headerOk .floor (cut 8 8) = true ∧ up.headerOk .floor (cut 7 8) = false
      ∧ up.headerOk .floor (cut 8208 8208) = true ∧ up.headerOk .floor (cut 8209 8209) = false)
    ∧ up.headerOk .floor ((cut 8 8).set 12 0x08) = false
    ∧ (∀ k ∈ [0x01, 0x0A, 0x10, 0x17], up.headerOk .floor (message k 1 7 []) = true)
    ∧ (∀ k ∈ [0x00, 0x0B, 0x0F, 0x18], up.headerOk .floor (message k 1 7 []) = false)
    ∧ (∀ n ∈ [255, 256], ({ up with array.toFloor := List.replicate n [] } : State).waits .array = (n == 256))
    ∧ (∀ n ∈ [15, 16], ({ up with array.control := List.replicate n (.qg 9) } : State).waits .array = (n == 16))
    ∧ (up.sourceOk .array 0 = true ∧ up.sourceOk .array 1 = false ∧ up.sourceOk .floor 7 = true) := by decide +kernel

/-- Frames of each kind for the part and for another station, on both ports, at the shortest body of a request and one
byte below it, and the verbs at the ends of their ranges. -/
theorem test_meets_MalformedFrames_spelling :
    let ask (v : Byte) (n : Nat) : List Byte := bytes4 5 ++ [v] ++ zeros n
    let floor (kind dst : Nat) (body : List Byte) : Option Instr := up.commandOf .floor 10 (message kind dst 7 body)
    let array (kind dst : Nat) (body : List Byte) : Option Instr := up.commandOf .array 10 (message kind dst 9 body)
    (∀ v ∈ [0, 1, 7, 8], (floor 0x10 1 (ask v 3)).isSome = true ∧ floor 0x10 1 (ask v 2) = none)
    ∧ (floor 0x10 1 (ask 7 3) = some (.close (at10 7 8) 5 0)
      ∧ floor 0x10 1 (ask 8 3) = some (.unknownStationVerb (at10 7 8) 5 8 0))
    ∧ (∀ k ∈ [0x10, 0x14, 0x15], floor k 2 (ask 1 11) = none ∧ (floor k 1 (ask 1 11)).isSome = true)
    ∧ (floor 0x01 1 readBody = none ∧ (floor 0x01 2 readBody).isSome = true ∧ floor 0x16 1 [] = none)
    ∧ (∀ v ∈ [0, 1, 15, 16], (array 0x08 1 (ask v 3)).isSome = true ∧ array 0x08 1 (ask v 2) = none)
    ∧ (array 0x08 1 (ask 15 3) = some (.resetPart (at10 9 8) 5)
      ∧ array 0x08 1 (ask 16 3) = some (.unknownManageVerb (at10 9 8) 5 16))
    ∧ (∀ k ∈ [0x02, 0x03], (array k 1 (zeros 12)).isSome = true ∧ (array k 2 (zeros 12)).isSome = true)
    ∧ (∀ k ∈ [0x05, 0x06, 0x08], (array k 1 (ask 1 3)).isSome = true ∧ array k 2 (ask 1 3) = none)
    ∧ ((array 0x04 2 rewriteBody).isSome = true ∧ array 0x01 1 [] = none ∧ array 0x07 1 [] = none) := by decide +kernel

/-- A close that completes, one that a SENDING slot holds back, and a stream in another state. -/
theorem test_meets_CloseEndsTheStream_completion :
    let s := withStream .closing
    let held := s.setWindow 0 { slots := [], sending := [slot0 .sending], cursor := none }
    ((s.stream 0).state = .closing ∧ (s.stream 0).owner = some 7 ∧ (s.window 0).sending = []
      ∧ ((s.finishClose 0).stream 0).state = .closed)
    ∧ ((held.window 0).sending ≠ [] ∧ ((held.finishClose 0).stream 0).state = .closing)
    ∧ ((withStream .idle).stream 0).state ≠ .closing := by decide +kernel

/-- A window with a place left and its cursor, a full one and one without a cursor; a step that stays inside the clip
and one that leaves it; a re-target that keeps a slot and creates another. -/
theorem test_meets_Windows_passes :
    let s (d : Nat) (f : Option Nat) : State :=
      ((withStream .primed).setStream 0 { record .primed with effDepth := d }).setWindow 0
        { slots := [slot0 .ready], sending := [], cursor := f }
    ((s 2 (some 1)).stream 0).windowed = true ∧ ((s 2 (some 1)).window 0).cursor = some 1
    ∧ ((s 2 (some 1)).window 0).slots.length + ((s 2 (some 1)).window 0).sending.length
      < ((s 2 (some 1)).stream 0).effDepth
    ∧ ((((s 2 (some 1)).topUp 0).window 0).slots.map Slot.frame, (((s 2 (some 1)).topUp 0).window 0).cursor)
      = ([0, 1], some 2)
    ∧ (((s 2 (some 3)).topUp 0).window 0).cursor = none
    ∧ ((s 1 (some 1)).stream 0).effDepth ≤ ((s 1 (some 1)).window 0).slots.length ∧ ((s 2 none).window 0).cursor = none
    ∧ (((s 2 none).retarget 0).window 0).slots.map (fun z => (z.frame, z.serial))
      = [(0, 0), (1, 0)] := by decide +kernel

/-- Rules that a COMMIT arms, one at its match level and one not; two entries of the same fields and two that differ. -/
theorem test_meets_CommitChecksAndSwaps_rules :
    let s (l : Level) : State := { up with
      tables := { up.tables with staged := (ruleOn .tags l .disarmed).tables.active } }
    let t (l : Level) : State := after (.commit (at10 9 8) 5) (s l)
    ((t .low).ruleState 0 = .tripped ∧ (t .high).ruleState 0 = .armed ∧ (t .low).ruleState 1 = .disarmed)
    ∧ clip1.sameFields { clip1 with edition := none } = true
    ∧ (∀ x ∈ [{ clip1 with proxy := none }, { clip1 with primary := { primary1 with frameCount := 3 } },
        { clip1 with numerator := 25 }], clip1.sameFields x = false) := by decide +kernel

/-- A live stream whose frame is in transmission is closed at once; a CLOSED record is left. -/
theorem test_meets_ResetStreams_closes :
    let d : Delivery := { handle := 0, dst := 7, slot := 0, frame := 0, timecode := 0, proxy := false, segments := 2,
                          next := 1, abandoned := false }
    let s : State := { playing .ready (record .playing) with
      tx.current := some d, tx.queue := [{ d with handle := 1 }] }
    let t := s.closeAtOnce 0
    (s.stream 0).live = true ∧ (s.stream 0).owner = some 7 ∧ (s.stream 1).live = false
    ∧ (t.stream 0).state = .closed ∧ t.tx.current = none ∧ t.tx.queue = [{ d with handle := 1 }]
    ∧ (t.window 0).slots = [] ∧ t.tx.control = [.sn 7 0 .closed .reset .primary false 0] := by decide +kernel

/-- A head whose page is VALID, and one whose page is FILLING, with its referrer; another span that it does not name. -/
theorem test_meets_DeliveryEvents_referrers :
    let x : Slot := { slot0 .ready with
      pages := [{ key := { volume := 0, page := 0 }, first := 0, count := 2, span := some 0 }] }
    let s (st : SpanState) : State := { (playing .ready (record .playing)).setWindow 0
        { slots := [x], sending := [], cursor := none } with
      buffer := { SpanBuffer.reset with
        spans := [(0, { spanOf st with refs := [user] }), (1, { spanOf .valid with refs := [user] })], fresh := 2 } }
    let refs (st : SpanState) (i : Nat) : Option (List Bool) :=
      (((s st).deliverSent 0 x).buffer.span i).map (fun y => y.refs.map Referrer.sending)
    (((s .valid).window 0).slots = [x] ∧ user.handle = 0 ∧ user.slot = x.serial)
    ∧ (refs .valid 0 = some [true] ∧ refs (.filling fetch1) 0 = some [true] ∧ refs .valid 1 = some [false]) := by
  decide +kernel

/-- The loss of the floor link with a local answer running and a live stream: the pin goes and the stream is CLOSED. -/
theorem test_meets_FloorLoss_ends :
    let b : LocalAnswer := { serial := 0, station := 7, target := 0, tag := 9, span := 0, offset := 0, count := 2,
                             handed := 2, ready := none }
    let s : State := { withSpan { spanOf .valid with pins := 1 } with
      streams := (withStream .idle).streams, buffer.answers := [b], floor := { up.floor with partnerHolds := true } }
    let t := after (.floorLinkDown 10) s
    s.linkUp .floor = true ∧ s.buffer.answers = [b] ∧ (s.stream 0).live = true
    ∧ t.buffer.answers = [] ∧ t.buffer.resting = [0] ∧ (t.stream 0).state = .closed ∧ t.floor.partnerHolds = false := by
  decide +kernel

/-- A grant, an answer and a notice that wait together, with 13 to 16 messages queued; two keys that wait, with spans
for both, for one and for none, the slot of the first naming its span. -/
theorem test_meets_WaitingMessages_order :
    let m : ManageAnswer := { dst := 9, req := 5, verb := 8, result := .ok, walking := false, generation := 1,
                              body := .empty }
    let s (n : Nat) : State := { up with
      array := { up.array with control := List.replicate n (.qg 8), grantWaiting := some 9 }
      responder := { up.responder with waiting := some m } }
    let joined (n : Nat) : List ArrayControl := (s n).joins.array.control.drop n
    let key (p : Nat) : Key := { volume := 0, page := p }
    let z : Slot := { slot0 .pending with pages := [{ key := key 0, first := 0, count := 2, span := none }] }
    let one : State := (withStream .priming).setWindow 0 { slots := [z], sending := [], cursor := none }
    let waiting (n : Nat) : State := { one with
      buffer := { SpanBuffer.reset with
        fresh := n, waiting := [{ key := key 0, slots := [user] }, { key := key 1, slots := [user] }] } }
    (joined 13 = [.qg 9, .ma m, .mn .ready false] ∧ joined 14 = [.qg 9, .ma m] ∧ joined 15 = [.qg 9] ∧ joined 16 = [])
    ∧ (∀ n ∈ [32766, 32767, 32768], (waiting n).buffer.take.isSome = decide (n < 32768)
      ∧ (waiting n).serve.buffer.waiting.map WaitingKey.key = [key 0, key 1].drop (32768 - n))
    ∧ ((waiting 32767).serve.window 0).slots.map (fun y => y.pages.map PageEntry.span) = [[some 32767]] := by
  decide +kernel

/-- Both transmitters free, each with a control message: both start in the event itself. -/
theorem test_meets_SettlingMovesMessagesOnly_choices :
    let s : State := { up with array.control := [.qg 9], tx.control := [.sa 7 5 0 .accepted, .pb 7 0 0 1] }
    s.arrayFree = true ∧ s.floorFree = true ∧ s.NoneArmed
    ∧ s.settle.array.sending = some (.control (.qg 9)) ∧ s.settle.tx.sending = some (.control (.sa 7 5 0 .accepted))
    ∧ s.settle.tx.control = [.pb 7 0 0 1] := by decide +kernel

/-- The owner of a record, one with none, and a responder with 31 and with 32 notices. -/
theorem test_meets_notifications :
    let q (n : Nat) : State := { up with responder.notices := List.replicate n .ready }
    ((withStream .idle).stream 0).owner = some 7 ∧ (up.stream 0).owner = none
    ∧ ((q 31).pushNotice .ready).responder.notices.length = 32
    ∧ ((q 32).pushNotice .ready).responder.overflow = true := by
  decide +kernel

end Sys2Proof.Tests
end

section
/-! PROOFS. The state after a full reset, block by block. -/

namespace Sys2Proof.Machine

open Sys2Proof

/-! ## The state after a full reset -/

section Reset

variable (pins : Straps)

@[simp] theorem State.stream_resetWith (h : Handle) : (State.resetWith pins).stream h = Stream.reset := by
  simp [State.stream, State.resetWith]

@[simp] theorem State.window_resetWith (h : Handle) : (State.resetWith pins).window h = Window.empty := by
  simp [State.window, State.resetWith]

@[simp] theorem State.cadence_resetWith (h : Handle) : (State.resetWith pins).cadence h = Cadence.reset := by
  simp [State.cadence, State.resetWith]

@[simp] theorem State.ruleState_resetWith (r : RuleNumber) : (State.resetWith pins).ruleState r = .disarmed := by
  simp [State.ruleState, State.resetWith]

/-- No stream holds a reservation after a full reset. -/
theorem State.reservationSum_resetWith : (State.resetWith pins).reservationSum = 0 := by
  simp [State.reservationSum, State.resetWith, Stream.reset]

/-- Every span is in the free list after a full reset, by rising page index. -/
theorem SpanBuffer.freeList_reset : SpanBuffer.reset.freeList = List.range Config.bufferPages := by
  simp [SpanBuffer.freeList, SpanBuffer.reset, List.range_eq_range']

end Reset

/-- Settles O10, by what each block of the state reads after a full reset. -/
theorem fullResetValues : Obligations.FullResetValues := by
  refine ⟨rfl, fun pins => ?_⟩
  have streams : ∀ h : Handle, (State.resetWith pins).stream h = Stream.reset
      ∧ (State.resetWith pins).window h = Window.empty ∧ (State.resetWith pins).cadence h = Cadence.reset :=
    fun h => ⟨State.stream_resetWith pins h, State.window_resetWith pins h, State.cadence_resetWith pins h⟩
  refine ⟨⟨rfl, rfl, rfl⟩, ⟨rfl, rfl, rfl, rfl, rfl⟩, ⟨rfl, rfl, rfl, rfl, rfl, rfl, rfl⟩,
    ⟨rfl, State.reservationSum_resetWith pins, fun h => ?records⟩,
    ⟨SpanBuffer.freeList_reset, rfl, rfl, rfl, rfl, fun _ => rfl⟩, ⟨rfl, rfl, rfl, rfl, rfl, rfl⟩, rfl, rfl, rfl,
    ⟨rfl, rfl, rfl, State.ruleState_resetWith pins⟩, rfl, ⟨rfl, rfl, rfl, rfl⟩⟩
  case records =>
    obtain ⟨stream, window, cadence⟩ := streams h
    rw [stream, window, cadence]
    simp [Stream.reset, Window.empty, Cadence.reset]

end Sys2Proof.Machine
end

section
/-! PROOFS. The edits of the staged bank: which offers pass, what the bank finds afterwards, and the answers to STAGE
STATION. -/

namespace Sys2Proof.Machine

open Sys2Proof

/-! ## Sorted tables: the entry placed is found, and no other entry is touched -/

theorem find_insertStation_self (e : StationEntry) (l : List StationEntry) :
    (insertStation e l).find? (fun x => x.station == e.station) = some e := by
  induction l with
  | nil => simp [insertStation]
  | cons x r ih =>
    unfold insertStation
    split
    · simp
    · split
      · simp
      · rename_i ne
        have : (x.station == e.station) = false := beq_false_of_ne (Ne.symm ne)
        rw [List.find?_cons, this, ih]

theorem find_insertStation_of_ne (e : StationEntry) {m : Half} (h : m ≠ e.station) (l : List StationEntry) :
    (insertStation e l).find? (fun x => x.station == m) = l.find? (fun x => x.station == m) := by
  have other : (e.station == m) = false := beq_false_of_ne (Ne.symm h)
  induction l with
  | nil => simp [insertStation, other]
  | cons x r ih =>
    unfold insertStation
    split
    · rw [List.find?_cons, other]
    · split
      · rename_i same
        rw [List.find?_cons, List.find?_cons, other, ← same, other]
      · rw [List.find?_cons, List.find?_cons, ih]

theorem find_insertClip_self (c : Clip) (l : List Clip) :
    (insertClip c l).find? (fun x => x.clipId == c.clipId) = some c := by
  induction l with
  | nil => simp [insertClip]
  | cons x r ih =>
    unfold insertClip
    split
    · simp
    · split
      · simp
      · rename_i ne
        have : (x.clipId == c.clipId) = false := beq_false_of_ne (Ne.symm ne)
        rw [List.find?_cons, this, ih]

theorem find_insertClip_of_ne (c : Clip) {j : Word} (h : j ≠ c.clipId) (l : List Clip) :
    (insertClip c l).find? (fun x => x.clipId == j) = l.find? (fun x => x.clipId == j) := by
  have other : (c.clipId == j) = false := beq_false_of_ne (Ne.symm h)
  induction l with
  | nil => simp [insertClip, other]
  | cons x r ih =>
    unfold insertClip
    split
    · rw [List.find?_cons, other]
    · split
      · rename_i same
        rw [List.find?_cons, List.find?_cons, other, ← same, other]
      · rw [List.find?_cons, List.find?_cons, ih]

/-- A search that looks for one number finds nothing once the entries of that number are gone. -/
theorem find_filter_ne_self {α β : Type} [DecidableEq β] (f : α → β) (n : β) (l : List α) :
    (l.filter (fun x => f x != n)).find? (fun x => f x == n) = none := by
  simp [List.find?_eq_none]

/-- The entries of one number can go without a search for another number noticing. -/
theorem find_filter_ne_of_ne {α β : Type} [DecidableEq β] (f : α → β) {n m : β} (h : m ≠ n) (l : List α) :
    (l.filter (fun x => f x != n)).find? (fun x => f x == m) = l.find? (fun x => f x == m) := by
  rw [List.find?_filter]
  congr 1
  funext x
  by_cases e : f x = m <;> simp [e, h]

/-! ## STAGE STATION (R14) -/

/-- The ranges that R14 refuses are those outside of which an offered station entry passes. -/
theorem stationOk_eq_false_iff {own n : Half} {shedClass limit : Byte} : stationOk own n shedClass limit = false ↔
    n = 0 ∨ n = 0xFFFF ∨ n = own ∨ 7 < shedClass.toNat ∨ limit = 0 ∨ 8 < limit.toNat := by
  have zero : limit = 0 ↔ limit.toNat < 1 := by simp [BitVec.toNat_eq]
  rw [← Bool.not_eq_true, zero]
  simp only [stationOk, Bool.and_eq_true, bne_iff_ne, decide_eq_true_eq, not_and_or, not_not, not_le, ne_eq, or_assoc]

section Edit

variable {b : Bank} {own n : Half} {shedClass limit : Byte}

theorem Bank.stageStation_refused (h : stationOk own n shedClass limit = false) (len : Nat) :
    b.stageStation len own n shedClass limit = .error .badField := by
  simp [Bank.stageStation, h]

theorem Bank.stageStation_full (h : stationOk own n shedClass limit ≠ false) (absent : b.station n = none)
    (full : 64 ≤ b.stations.length) : b.stageStation 12 own n shedClass limit = .error .full := by
  simp [Bank.stageStation, h, absent, Config.maxStations, full]

theorem Bank.stageStation_placed (h : stationOk own n shedClass limit ≠ false)
    (room : b.station n ≠ none ∨ b.stations.length < 64) :
    b.stageStation 12 own n shedClass limit = .ok { b with
      stations := insertStation { station := n, shedClass := shedClass.toNat, limit := limit.toNat } b.stations } := by
  have notFull : ¬ ((b.station n).isNone && decide (Config.maxStations ≤ b.stations.length)) = true := by
    simp only [Bool.and_eq_true, Option.isNone_iff_eq_none]
    rintro ⟨absent, full⟩
    rcases room with present | few
    · exact present absent
    · exact absurd (of_decide_eq_true full) (Nat.not_le.2 few)
  have passes : ¬ ((12 : Nat) ≠ 12 ∨ stationOk own n shedClass limit = false) := by simpa using h
  unfold Bank.stageStation
  rw [if_neg passes, if_neg notFull]

end Edit

/-- A verb that stages is answered with the outcome of its edit while the walk is IDLE. -/
theorem State.stage_refused {s : State} (idle : s.walking = false) (a : Arrival) (req : Word) (v : ManageVerb)
    {edit : Except ManageResult Bank} {e : ManageResult} (h : edit = .error e) :
    s.stage a req v edit = s.answerManage a.src req (verbCode v) e .empty := by
  subst h
  simp [State.stage, State.reply, idle]

theorem State.stage_made {s : State} (idle : s.walking = false) (a : Arrival) (req : Word) (v : ManageVerb)
    {edit : Except ManageResult Bank} {x : Bank} (h : edit = .ok x) : s.stage a req v edit
      = State.answerManage { s with tables := { s.tables with staged := x } } a.src req (verbCode v) .ok .empty := by
  subst h
  simp [State.stage, State.reply, idle]

/-- A STAGE STATION that the array port takes has its edit, and the event settles. -/
theorem exec_stageStation {s : State} {a : Arrival} (taking : s.Taking .array a.src) (len : 8 ≤ a.len) (req : Word)
    (n : Half) (shedClass limit : Byte) : exec (.stageStation a req n shedClass limit) s
      = .next (State.settle ((s.stamp a.time).stage a req .stageStation
          (s.tables.staged.stageStation a.len s.straps.station n shedClass limit))) := by
  change execStageStation a req n shedClass limit s = _
  unfold execStageStation
  rw [State.arrive_taken taking, State.readableManage_of_le len]
  rfl

/-- Settles O44, by the three outcomes of the edit. -/
theorem stageStationChecksItsEntry : Obligations.StageStationChecksItsEntry := by
  intro s a req n shedClass limit taking idle len b v bad
  have idle' : v.walking = false := idle
  have badIff : stationOk s.straps.station n shedClass limit = false ↔ bad := stationOk_eq_false_iff
  rw [exec_stageStation taking (by omega), len, ← badIff]
  refine ⟨fun refused => ?_, fun passes absent full => ?_, fun passes room => ?_⟩
  · rw [State.stage_refused idle' a req _ (Bank.stageStation_refused refused 12)]
    rfl
  · rw [State.stage_refused idle' a req _ (Bank.stageStation_full passes absent full)]
    rfl
  · let entry : StationEntry := { station := n, shedClass := shedClass.toNat, limit := limit.toNat }
    refine ⟨{ b with stations := insertStation entry b.stations }, ?_, find_insertStation_self entry b.stations,
      fun m ne => find_insertStation_of_ne entry ne b.stations, rfl, rfl, rfl⟩
    rw [State.stage_made idle' a req _ (Bank.stageStation_placed passes room)]
    rfl

end Sys2Proof.Machine
end

section
/-! PROOFS. The staged bank under the other staging verbs: an offered clip entry, a policy record and a shed rule pass
exactly where their fields lie in the ranges that chapters 1, 8 and 9 give. -/

namespace Sys2Proof

open Sys2Proof.Machine

/-! ## An offered clip entry (R11, R12) -/

/-- Blocks of an offered extent. -/
def ExtentOffer.blocks (e : ExtentOffer) : Nat := 256 * e.pages.toNat

/-- An offered extent lies on its volume, in whole pages (R5). -/
def ExtentOffer.Placed (e : ExtentOffer) : Prop :=
  e.start.toNat % 256 = 0 ∧ 1 ≤ e.pages.toNat ∧ e.pages.toNat ≤ 65536 ∧ e.start.toNat + e.blocks ≤ 2 ^ 40

/-- Two offered extents share no page (R5). -/
def ExtentOffer.Apart (x y : ExtentOffer) : Prop :=
  x.start.toNat + x.blocks ≤ y.start.toNat ∨ y.start.toNat + y.blocks ≤ x.start.toNat

/-- An extent count that R11 accepts. -/
def RenditionOffer.Counted (r : RenditionOffer) : Prop := 1 ≤ r.extentCount.toNat ∧ r.extentCount.toNat ≤ 64

/-- What R11 asks of one offered rendition, whatever the other one is. -/
def RenditionOffer.Accepted (r : RenditionOffer) : Prop :=
  1 ≤ r.frameBlocks.toNat ∧ r.frameBlocks.toNat ≤ 16384 ∧ 1 ≤ r.frameCount.toNat ∧ r.frameCount.toNat ≤ 16777216
    ∧ r.Counted ∧ (∀ e ∈ r.extents, e.Placed) ∧ r.extents.Pairwise ExtentOffer.Apart

/-- The extents of a rendition hold its frames (R12). -/
def RenditionOffer.Enough (r : RenditionOffer) : Prop :=
  r.frameCount.toNat * r.frameBlocks.toNat ≤ (r.extents.map ExtentOffer.blocks).sum

theorem extentsApart_iff (l : List Extent) :
    extentsApart l = true ↔ l.Pairwise (fun x y => x.apart y = true) := by
  induction l with
  | nil => simp [extentsApart]
  | cons e r ih => simp only [extentsApart, Bool.and_eq_true, List.all_eq_true, List.pairwise_cons, ih]

theorem RenditionOffer.extentsApart_iff (r : RenditionOffer) :
    extentsApart r.extentList = true ↔ r.extents.Pairwise ExtentOffer.Apart := by
  rw [Sys2Proof.extentsApart_iff, RenditionOffer.extentList, List.pairwise_map]
  simp only [Extent.apart, Bool.or_eq_true, decide_eq_true_eq]
  rfl

theorem RenditionOffer.extentsOk_iff (r : RenditionOffer) :
    r.extentList.all Extent.ok = true ↔ ∀ e ∈ r.extents, e.Placed := by
  simp only [RenditionOffer.extentList, List.all_map, List.all_eq_true, Function.comp, Extent.ok, Bool.and_eq_true,
    beq_iff_eq, decide_eq_true_eq, and_assoc]
  rfl

theorem RenditionOffer.uncounted_eq_false_iff (r : RenditionOffer) : r.uncounted = false ↔ r.Counted := by
  have zero : r.extentCount = 0 ↔ r.extentCount.toNat = 0 := by simp [BitVec.toNat_eq]
  simp only [RenditionOffer.uncounted, RenditionOffer.Counted, Bool.or_eq_false_iff, beq_eq_false_iff_ne, ne_eq, zero,
    decide_eq_false_iff_not]
  omega

/-- The checks on one rendition, with the frame count that a proxy shares with its primary. -/
theorem RenditionOffer.fieldsOk_iff (r : RenditionOffer) (frames : Option Nat) :
    r.fieldsOk frames = true ↔ r.Accepted ∧ (frames = none ∨ frames = some r.frameCount.toNat) := by
  have volume : r.volume.toNat ≤ 255 := by have := r.volume.isLt; omega
  have extents := r.extentsOk_iff
  have apart := r.extentsApart_iff
  simp only [RenditionOffer.fieldsOk, Bool.and_eq_true, Bool.or_eq_true, beq_iff_eq, decide_eq_true_eq]
  simp only [RenditionOffer.record, extents, apart, volume, true_and, RenditionOffer.Accepted, RenditionOffer.Counted]
  tauto

theorem RenditionOffer.extentsSuffice_iff (r : RenditionOffer) : r.record.extentsSuffice = true ↔ r.Enough := by
  have held : r.record.blocksHeld = (r.extents.map ExtentOffer.blocks).sum := by
    simp only [RenditionRecord.blocksHeld, RenditionOffer.record, RenditionOffer.extentList, List.map_map]
    exact (List.sum_map_mul_left ..).symm
  simp only [RenditionRecord.extentsSuffice, decide_eq_true_eq, held]
  rfl

/-- Both renditions of an entry pass the extent-sum check. -/
theorem ClipOffer.extentsSuffice_iff (o : ClipOffer) :
    o.extentsSuffice = true ↔ o.primary.Enough ∧ ∀ q : RenditionOffer, o.proxy = some q → q.Enough := by
  unfold ClipOffer.extentsSuffice
  cases o.proxy with
  | none => simp [RenditionOffer.extentsSuffice_iff]
  | some q => simp [RenditionOffer.extentsSuffice_iff]

theorem ClipOffer.lengthOk_of_single {o : ClipOffer} (h : o.proxy = none) (len : Nat) : o.lengthOk len = true ↔
    (o.primary.Counted → len = 8 + 20 + (12 + 12 * o.primary.extentCount.toNat)) := by
  rw [← RenditionOffer.uncounted_eq_false_iff]
  simp only [ClipOffer.lengthOk, h, Bool.or_eq_true, beq_iff_eq, recordBytes]
  cases o.primary.uncounted <;> simp

theorem ClipOffer.lengthOk_of_both {o : ClipOffer} {q : RenditionOffer} (h : o.proxy = some q) (len : Nat) :
    o.lengthOk len = true ↔ (o.primary.Counted → q.Counted →
      len = 8 + 20 + (12 + 12 * o.primary.extentCount.toNat) + (12 + 12 * q.extentCount.toNat)) := by
  rw [← RenditionOffer.uncounted_eq_false_iff, ← RenditionOffer.uncounted_eq_false_iff]
  simp only [ClipOffer.lengthOk, h, Bool.or_eq_true, beq_iff_eq, recordBytes]
  cases o.primary.uncounted <;> cases q.uncounted <;> simp

/-- The checks of R11 on an entry, the length apart. -/
theorem ClipOffer.fieldsOk_iff (o : ClipOffer) : o.fieldsOk = true ↔
    o.clipId ≠ 0 ∧ 1 ≤ o.numerator.toNat ∧ o.numerator.toNat ≤ 120000 ∧ 1 ≤ o.denominator.toNat
      ∧ o.denominator.toNat ≤ 1001 ∧ o.denominator.toNat ≤ o.numerator.toNat
      ∧ o.numerator.toNat ≤ 120 * o.denominator.toNat ∧ o.firstTimecode.toNat ≤ 2147483647 ∧ o.primary.Accepted
      ∧ ∀ q : RenditionOffer, o.proxy = some q → q.Accepted ∧ q.frameCount = o.primary.frameCount := by
  have same (q : RenditionOffer) : some o.primary.frameCount.toNat = some q.frameCount.toNat
      ↔ q.frameCount = o.primary.frameCount := by
    rw [Option.some_inj, ← BitVec.toNat_eq, eq_comm]
  unfold ClipOffer.fieldsOk rateOk
  cases o.proxy with
  | none => simp [RenditionOffer.fieldsOk_iff, and_assoc]
  | some q => simp [RenditionOffer.fieldsOk_iff, and_assoc, same]

theorem ClipOffer.entry_eq (o : ClipOffer) : o.entry =
    { clipId := o.clipId, edition := none, numerator := o.numerator.toNat, denominator := o.denominator.toNat,
      firstTimecode := o.firstTimecode.toNat, primary := o.primary.record,
      proxy := o.proxy.map RenditionOffer.record } := by
  unfold ClipOffer.entry
  cases o.proxy <;> rfl

/-! ## An offered policy record (R190, R191) -/

theorem checkModeOf_eq_some_iff {b : Byte} {mode : CheckMode} : checkModeOf b = some mode ↔
    (b = 1 ∨ b = 2) ∧ mode = if b = 1 then .report else .refetch := by
  unfold checkModeOf
  split_ifs with one two <;> simp_all [eq_comm]

/-- Every setting of an offered policy record lies in its range. -/
def PolicyOffer.Accepted (o : PolicyOffer) : Prop :=
  1 ≤ o.retryLimit.toNat ∧ o.retryLimit.toNat ≤ 15 ∧ 1 ≤ o.readTimeout.toNat ∧ o.readTimeout.toNat ≤ 1000
    ∧ 1 ≤ o.probeWindow.toNat ∧ o.probeWindow.toNat ≤ 50 ∧ o.guardTime.toNat ≤ 50 ∧ 1 ≤ o.starveLimit.toNat
    ∧ 1 ≤ o.ceiling.toNat ∧ o.ceiling.toNat ≤ 32192 ∧ (o.checkMode = 1 ∨ o.checkMode = 2)

theorem PolicyOffer.record_eq_none {o : PolicyOffer} (h : ¬ o.Accepted) : o.record = none := by
  unfold PolicyOffer.record
  split
  · rfl
  · rename_i mode known
    obtain ⟨code, -⟩ := checkModeOf_eq_some_iff.1 known
    refine if_neg fun ranges => h ?_
    simp only [Config.maxCeiling] at ranges
    unfold PolicyOffer.Accepted
    tauto

theorem PolicyOffer.record_of_accepted {o : PolicyOffer} (h : o.Accepted) : o.record = some
    { retryLimit := o.retryLimit.toNat, readTimeout := o.readTimeout.toNat, probeWindow := o.probeWindow.toNat,
      guardTime := o.guardTime.toNat, starveLimit := o.starveLimit.toNat,
      checkMode := if o.checkMode = 1 then .report else .refetch, ceiling := o.ceiling.toNat } := by
  have starve : o.starveLimit.toNat ≤ 255 := by have := o.starveLimit.isLt; omega
  obtain ⟨h1, h2, h3, h4, h5, h6, h7, h8, h9, h10, code⟩ := h
  unfold PolicyOffer.record
  rw [checkModeOf_eq_some_iff.2 ⟨code, rfl⟩]
  exact if_pos ⟨h1, h2, h3, h4, h5, h6, h7, h8, starve, h9, h10⟩

/-! ## An offered shed rule (R165, R166) -/

theorem ruleOf_eq_some_iff {b : Byte} {r : RuleNumber} : ruleOf b = some r ↔ b.toNat = r.1 := by
  unfold ruleOf
  split
  · simp [Fin.ext_iff]
  · have := r.2
    simp only [reduceCtorEq, false_iff]
    omega

theorem flagOf_of_code {b : Byte} (h : b = 0 ∨ b = 1) : flagOf b = some (b == 1) := by
  rcases h with rfl | rfl <;> rfl

theorem code_of_flagOf {b : Byte} {x : Bool} (h : flagOf b = some x) : b = 0 ∨ b = 1 := by
  unfold flagOf at h
  split_ifs at h with zero one
  · exact Or.inl zero
  · exact Or.inr one

theorem sourceOf_eq_some_iff {b : Byte} {src : Source} : sourceOf b = some src ↔
    (b, src) ∈ [((1 : Byte), Source.lat1), (2, .lat2), (3, .tags), (4, .quiesced)] := by
  unfold sourceOf
  split_ifs with one two three four <;> simp_all [eq_comm]

theorem levelOf_eq_some_iff {b : Byte} {l : Level} : levelOf b = some l ↔
    (b, l) ∈ [((1 : Byte), Level.high), (2, .low)] := by
  unfold levelOf
  split_ifs with one two <;> simp_all [eq_comm]

theorem actionOf_eq_some_iff {b : Byte} {act : ShedAction} : actionOf b = some act ↔
    (b, act) ∈ [((1 : Byte), ShedAction.demote), (2, .shallow), (3, .pause)] := by
  unfold actionOf
  split_ifs with one two three <;> simp_all [eq_comm]

/-- Every code of a STAGE RULE is one of those that chapter 10.5 gives. -/
def RuleOffer.CodesOk (o : RuleOffer) : Prop :=
  o.rule.toNat ≤ 3 ∧ (o.enable = 0 ∨ o.enable = 1) ∧ (o.source = 1 ∨ o.source = 2 ∨ o.source = 3 ∨ o.source = 4)
    ∧ (o.level = 1 ∨ o.level = 2) ∧ (o.action = 1 ∨ o.action = 2 ∨ o.action = 3) ∧ o.comparator.toNat ≤ 3

/-- The comparator settings as they stand in a STAGE RULE. -/
def RuleOffer.levels (o : RuleOffer) : Settings :=
  { high := o.high.toNat, low := o.low.toNat, debounce := o.debounce.toNat }

/-- What R165 asks of the settings that a STAGE RULE brings, where it names a comparator. -/
def RuleOffer.LevelsOk (o : RuleOffer) : Prop :=
  o.comparator ≠ 0 → o.low.toNat < o.high.toNat ∧ 1 ≤ o.debounce.toNat
    ∧ (o.comparator ≠ 3 → 2 ≤ o.high.toNat ∧ o.high.toNat ≤ 60000000 ∧ 1 ≤ o.low.toNat)
    ∧ (o.comparator = 3 → o.high.toNat ≤ 512)

theorem RuleOffer.settings_of_source {o : RuleOffer} {src : Source} (h : sourceOf o.comparator = some src)
    (compared : src ≠ .quiesced) :
    o.settings = if o.levels.ok src then some (some (src, o.levels)) else none := by
  have named : o.comparator ≠ 0 := by
    intro zero
    rw [zero] at h
    exact absurd h (by simp [sourceOf])
  unfold RuleOffer.settings
  rw [if_neg named, h]
  cases src with
  | quiesced => exact absurd rfl compared
  | lat1 | lat2 | tags => rfl

/-- The ranges of the settings by the code of the comparator that they are for. -/
theorem RuleOffer.levels_ok_iff {o : RuleOffer} {src : Source} (h : sourceOf o.comparator = some src)
    (compared : src ≠ .quiesced) : o.levels.ok src = true ↔ o.LevelsOk := by
  have debounce : o.debounce.toNat ≤ 255 := by have := o.debounce.isLt; omega
  have codes := sourceOf_eq_some_iff.1 h
  simp only [List.mem_cons, Prod.mk.injEq, List.not_mem_nil, or_false] at codes
  unfold Settings.ok RuleOffer.levels RuleOffer.LevelsOk
  rcases codes with ⟨code, rfl⟩ | ⟨code, rfl⟩ | ⟨code, rfl⟩ | ⟨-, rfl⟩
  · simp [code, debounce]; omega
  · simp [code, debounce]; omega
  · simp [code, debounce]; omega
  · exact absurd rfl compared

/-- A comparator code that names one of the three comparators. -/
theorem sourceOf_comparator {b : Byte} (h : b = 1 ∨ b = 2 ∨ b = 3) :
    ∃ src : Source, sourceOf b = some src ∧ src ≠ .quiesced := by
  rcases h with rfl | rfl | rfl
  · exact ⟨.lat1, rfl, by decide⟩
  · exact ⟨.lat2, rfl, by decide⟩
  · exact ⟨.tags, rfl, by decide⟩

theorem Byte.le_three_iff (b : Byte) : b.toNat ≤ 3 ↔ b = 0 ∨ b = 1 ∨ b = 2 ∨ b = 3 := by
  simp only [BitVec.toNat_eq]
  change _ ↔ b.toNat = 0 ∨ b.toNat = 1 ∨ b.toNat = 2 ∨ b.toNat = 3
  omega

/-- A STAGE RULE brings usable settings, or none, where its comparator code and its ranges allow. -/
theorem RuleOffer.accepted_of_settings {o : RuleOffer} {x : Option (Source × Settings)} (h : o.settings = some x) :
    o.comparator.toNat ≤ 3 ∧ o.LevelsOk := by
  by_cases zero : o.comparator = 0
  · exact ⟨by simp [zero], fun named => absurd zero named⟩
  · cases e : sourceOf o.comparator with
    | none =>
      rw [RuleOffer.settings, if_neg zero, e] at h
      cases h
    | some src =>
      by_cases compared : src = .quiesced
      · rw [RuleOffer.settings, if_neg zero, e, compared] at h
        cases h
      · rw [RuleOffer.settings_of_source e compared] at h
        have ok : o.levels.ok src = true := by
          by_contra bad
          rw [if_neg bad] at h
          cases h
        refine ⟨(Byte.le_three_iff _).2 ?_, (RuleOffer.levels_ok_iff e compared).1 ok⟩
        have codes := sourceOf_eq_some_iff.1 e
        simp only [List.mem_cons, Prod.mk.injEq, List.not_mem_nil, or_false] at codes
        tauto

theorem RuleOffer.settings_of_levels {o : RuleOffer} {src : Source} (h : sourceOf o.comparator = some src)
    (compared : src ≠ .quiesced) (ok : o.LevelsOk) : o.settings = some (some (src, o.levels)) := by
  rw [RuleOffer.settings_of_source h compared, if_pos ((RuleOffer.levels_ok_iff h compared).2 ok)]

/-- The codes of a STAGE RULE that gives a rule record. -/
theorem RuleOffer.codes_of_record {o : RuleOffer} {x : ShedRule} (h : o.record = some x) :
    (o.enable = 0 ∨ o.enable = 1) ∧ (o.source = 1 ∨ o.source = 2 ∨ o.source = 3 ∨ o.source = 4)
      ∧ (o.level = 1 ∨ o.level = 2) ∧ (o.action = 1 ∨ o.action = 2 ∨ o.action = 3) := by
  unfold RuleOffer.record at h
  split at h
  · rename_i enable source level action
    have source := sourceOf_eq_some_iff.1 source
    have level := levelOf_eq_some_iff.1 level
    have action := actionOf_eq_some_iff.1 action
    simp only [List.mem_cons, Prod.mk.injEq, List.not_mem_nil, or_false] at source level action
    exact ⟨code_of_flagOf enable, by tauto, by tauto, by tauto⟩
  · cases h

theorem RuleOffer.record_of_codes {o : RuleOffer} {src : Source} {l : Level} {act : ShedAction}
    (enable : o.enable = 0 ∨ o.enable = 1) (source : sourceOf o.source = some src) (level : levelOf o.level = some l)
    (action : actionOf o.action = some act) : o.record
      = some { enable := o.enable == 1, source := src, level := l, action := act, classes := o.classes } := by
  unfold RuleOffer.record
  rw [flagOf_of_code enable, source, level, action]

end Sys2Proof

namespace Sys2Proof.Machine

open Sys2Proof

variable (b : Bank)

/-! ## The edits -/

theorem Bank.unstageClip_edits (len : Nat) (clip : Word) :
    (len ≠ 12 → b.unstageClip len clip = .error .badField)
      ∧ (b.clip clip = none → b.unstageClip 12 clip = .error .noSuch)
      ∧ (b.clip clip ≠ none → ∃ x : Bank, b.unstageClip 12 clip = .ok x ∧ x.clip clip = none
        ∧ (∀ j : Word, j ≠ clip → x.clip j = b.clip j) ∧ x = { b with clips := x.clips }) := by
  refine ⟨fun h => ?_, fun h => ?_, fun h => ?_⟩
  · simp [Bank.unstageClip, h]
  · simp [Bank.unstageClip, h]
  · refine ⟨{ b with clips := b.clips.filter (fun c => c.clipId != clip) }, ?_,
      find_filter_ne_self Clip.clipId clip b.clips, fun j ne => find_filter_ne_of_ne Clip.clipId ne b.clips, rfl⟩
    simp [Bank.unstageClip, h]

theorem Bank.unstageStation_edits (len : Nat) (n : Half) :
    (len ≠ 12 → b.unstageStation len n = .error .badField)
      ∧ (b.station n = none → b.unstageStation 12 n = .error .noSuch)
      ∧ (b.station n ≠ none → ∃ x : Bank, b.unstageStation 12 n = .ok x ∧ x.station n = none
        ∧ (∀ j : Half, j ≠ n → x.station j = b.station j) ∧ x = { b with stations := x.stations }) := by
  refine ⟨fun h => ?_, fun h => ?_, fun h => ?_⟩
  · simp [Bank.unstageStation, h]
  · simp [Bank.unstageStation, h]
  · refine ⟨{ b with stations := b.stations.filter (fun e => e.station != n) }, ?_,
      find_filter_ne_self StationEntry.station n b.stations,
      fun j ne => find_filter_ne_of_ne StationEntry.station ne b.stations, rfl⟩
    simp [Bank.unstageStation, h]

section StageClip

variable {b} {len : Nat} {o : ClipOffer}

theorem Bank.stageClip_refused (h : ¬ (o.lengthOk len = true ∧ o.fieldsOk = true)) :
    b.stageClip len o = .error .badField := by
  have : (!o.lengthOk len || !o.fieldsOk) = true := by
    cases e : o.lengthOk len <;> cases e' : o.fieldsOk <;> simp_all
  simp [Bank.stageClip, this]

theorem Bank.stageClip_short (length : o.lengthOk len = true) (fields : o.fieldsOk = true)
    (h : ¬ o.extentsSuffice = true) : b.stageClip len o = .error .shortExtents := by
  simp [Bank.stageClip, length, fields, h]

theorem Bank.stageClip_full (length : o.lengthOk len = true) (fields : o.fieldsOk = true)
    (blocks : o.extentsSuffice = true) (absent : b.clip o.clipId = none) (full : 1024 ≤ b.clips.length) :
    b.stageClip len o = .error .full := by
  simp [Bank.stageClip, length, fields, blocks, absent, Config.maxClips, full]

theorem Bank.stageClip_placed (length : o.lengthOk len = true) (fields : o.fieldsOk = true)
    (blocks : o.extentsSuffice = true) (room : b.clip o.clipId ≠ none ∨ b.clips.length < 1024) :
    b.stageClip len o = .ok { b with clips := insertClip o.entry b.clips } := by
  have notFull : ¬ ((b.clip o.clipId).isNone && decide (Config.maxClips ≤ b.clips.length)) = true := by
    simp only [Bool.and_eq_true, Option.isNone_iff_eq_none]
    rintro ⟨absent, full⟩
    rcases room with present | few
    · exact present absent
    · exact absurd (of_decide_eq_true full) (Nat.not_le.2 few)
  unfold Bank.stageClip
  rw [if_neg (by simp [length, fields]), if_neg (by simp [blocks]), if_neg notFull]

end StageClip

theorem Bank.stagePolicy_refused {len : Nat} {o : PolicyOffer} (h : ¬ (len = 20 ∧ o.Accepted)) :
    b.stagePolicy len o = .error .badField := by
  by_cases ok : o.Accepted
  · have : len ≠ 20 := fun e => h ⟨e, ok⟩
    simp [Bank.stagePolicy, PolicyOffer.record_of_accepted ok, this]
  · simp [Bank.stagePolicy, PolicyOffer.record_eq_none ok]

/-- A STAGE RULE passes only with usable codes, settings and length. -/
theorem Bank.stageRule_refused {len : Nat} {o : RuleOffer}
    (h : ¬ (len = 24 ∧ o.CodesOk ∧ o.LevelsOk)) : b.stageRule len o = .error .badField := by
  unfold Bank.stageRule
  split
  · rename_i r rule settings number record offered
    obtain ⟨enable, source, level, action⟩ := RuleOffer.codes_of_record record
    obtain ⟨comparator, levels⟩ := RuleOffer.accepted_of_settings offered
    have number := ruleOf_eq_some_iff.1 number
    have := r.2
    exact if_neg fun length => h ⟨length, ⟨by omega, enable, source, level, action, comparator⟩, levels⟩
  · rfl

theorem Bank.stageRule_made {o : RuleOffer} {r : RuleNumber} {rule : ShedRule} {x : Option (Source × Settings)}
    (number : o.rule.toNat = r.1) (record : o.record = some rule) (settings : o.settings = some x) :
    b.stageRule 24 o = .ok { b with shed := b.shed.stage r rule x } := by
  simp [Bank.stageRule, ruleOf_eq_some_iff.2 number, record, settings]

/-- Settles O46, verb by verb: an offer passes exactly where its check does, and the edit then writes one place. -/
theorem stagedBankEdits : Obligations.StagedBankEdits := by
  intro b
  refine ⟨b.unstageClip_edits, b.unstageStation_edits, ?clips, ?policies, ?rules⟩
  case clips =>
    intro len o count counted lengthOk blocks placed apart renditionOk fieldsOk enough enoughBlocks bound record
    have length : o.lengthOk len = true ↔ lengthOk := by
      unfold lengthOk
      cases e : o.proxy with
      | none => exact ClipOffer.lengthOk_of_single e len
      | some q => exact ClipOffer.lengthOk_of_both e len
    have fields : o.fieldsOk = true ↔ fieldsOk := o.fieldsOk_iff
    have suffice : o.extentsSuffice = true ↔ enoughBlocks := o.extentsSuffice_iff
    rw [← length, ← fields, ← suffice]
    refine ⟨Bank.stageClip_refused, Bank.stageClip_short, fun l f e => ⟨Bank.stageClip_full l f e, fun room => ?_⟩⟩
    refine ⟨_, Bank.stageClip_placed l f e room, ?_, fun j ne => find_insertClip_of_ne o.entry ne b.clips, rfl⟩
    exact (find_insertClip_self o.entry b.clips).trans (congrArg some o.entry_eq)
  case policies =>
    intro len o ok
    refine ⟨b.stagePolicy_refused, fun accepted => ?_⟩
    simp only [Bank.stagePolicy, PolicyOffer.record_of_accepted accepted, if_true]
  case rules =>
    intro len o codesOk settingsOk
    refine ⟨b.stageRule_refused, ?_⟩
    intro r src l act levels number enable source level action rule shed settings
    have record : o.record = some rule := RuleOffer.record_of_codes enable (sourceOf_eq_some_iff.2 source)
      (levelOf_eq_some_iff.2 level) (actionOf_eq_some_iff.2 action)
    have compared {x : Source} (code : sourceOf o.comparator = some x) (ne : x ≠ .quiesced) :
        b.stageRule 24 o = .ok { b with shed := b.shed.stage r rule (some (x, settings)) } :=
      b.stageRule_made number record (RuleOffer.settings_of_levels code ne levels)
    refine ⟨fun zero => ?_, fun one => ?_, fun two => ?_, fun three => ?_⟩
    · exact b.stageRule_made number record (if_pos zero)
    · exact compared (x := .lat1) (by rw [one]; rfl) (by decide)
    · exact compared (x := .lat2) (by rw [two]; rfl) (by decide)
    · exact compared (x := .tags) (by rw [three]; rfl) (by decide)

end Sys2Proof.Machine
end

section
/-! PROOFS. COMMIT: no action of the shed controller touches a comparator or the state of a rule, so that the rules of a
commit trip one after another on the levels that the commit found. -/

namespace Sys2Proof.Machine

open Sys2Proof

/-! ## What the actions on streams leave of the pressure monitor and the shed controller -/

/-- `t` follows from `s` by operations that move no comparator and no rule. -/
structure KeepsShed (s t : State) : Prop where
  pressure : t.pressure = s.pressure
  rules    : t.rules = s.rules

namespace KeepsShed

variable {s t : State}

theorem refl (s : State) : KeepsShed s s := ⟨rfl, rfl⟩

theorem trans {u : State} (h : KeepsShed s t) (e : KeepsShed t u) : KeepsShed s u :=
  ⟨e.pressure.trans h.pressure, e.rules.trans h.rules⟩

/-- Operations on windows, spans and fetch records are of this kind. -/
theorem quiet {u : State} (h : KeepsShed s t) (q : Quiet t u) : KeepsShed s u := h.trans ⟨q.pressure, q.rules⟩

theorem setStream (h : KeepsShed s t) (k : Handle) (r : Stream) : KeepsShed s (t.setStream k r) := ⟨h.1, h.2⟩
theorem setCadence (h : KeepsShed s t) (k : Handle) (c : Cadence) : KeepsShed s (t.setCadence k c) := ⟨h.1, h.2⟩
theorem stopCadence (h : KeepsShed s t) (k : Handle) : KeepsShed s (t.stopCadence k) := ⟨h.1, h.2⟩
theorem bumpIndex (h : KeepsShed s t) (k : Handle) : KeepsShed s (t.bumpIndex k) := ⟨h.1, h.2⟩
theorem pushControl (h : KeepsShed s t) (m : FloorControl) : KeepsShed s (t.pushControl m) := ⟨h.1, h.2⟩
theorem reserve (h : KeepsShed s t) (k : Handle) : KeepsShed s (t.reserve k) := ⟨h.1, h.2⟩
theorem moveTo (h : KeepsShed s t) (k : Handle) (st : StreamState) : KeepsShed s (t.moveTo k st) := ⟨h.1, h.2⟩

theorem loseNotice (h : KeepsShed s t) (k : Handle) : KeepsShed s (t.loseNotice k) := by
  unfold State.loseNotice
  split
  · exact h.setStream k _
  · exact h

theorem placeControl (h : KeepsShed s t) (c : Option Handle) (m : FloorControl) : KeepsShed s (t.placeControl c m) := by
  unfold State.placeControl
  split
  · exact h
  · split
    · exact h.pushControl m
    · split
      · exact h.loseNotice _
      · exact h

theorem notify (h : KeepsShed s t) (k : Handle) (reason : Reason) : KeepsShed s (t.notify k reason) := by
  unfold State.notify
  split
  · unfold State.notifyTo
    dsimp only
    split
    · exact h
    · split
      · exact (h.setStream k _).pushControl _
      · exact h.loseNotice k
  · exact h

theorem pushNotice (h : KeepsShed s t) (n : Notice) : KeepsShed s (t.pushNotice n) := by
  unfold State.pushNotice
  split
  · exact ⟨h.1, h.2⟩
  · exact ⟨h.1, h.2⟩

theorem pauseFor (h : KeepsShed s t) (k : Handle) (why : PauseReason) (reason : Reason) :
    KeepsShed s (t.pauseFor k why reason) := ((h.setStream k _).stopCadence k).notify k reason

theorem takeAnchor (h : KeepsShed s t) (k : Handle) (a : Nat) : KeepsShed s (t.takeAnchor k a) :=
  (h.setCadence k _).quiet ((Quiet.refl _).recomputeDeadlines k)

theorem endOfClip (h : KeepsShed s t) (k : Handle) : KeepsShed s (t.endOfClip k) :=
  KeepsShed.notify (((h.setStream k _).moveTo k .idle).quiet (((Quiet.refl _).detachWindow k).detachSending k)) k _

theorem advancePosition (h : KeepsShed s t) (k : Handle) : KeepsShed s (t.advancePosition k) := by
  unfold State.advancePosition
  dsimp only
  split
  · exact h.setStream k _
  · split
    · exact h.setStream k _
    · exact h

theorem startFrame (h : KeepsShed s t) (k : Handle) (x : Slot) : KeepsShed s (t.startFrame k x) :=
  have q := ((Quiet.refl t).setWindow k
    { t.window k with slots := (t.window k).slots.filter (fun y => y.serial != x.serial)
                      sending := (t.window k).sending ++ ((t.window k).slots.filter
                        (fun y => y.serial == x.serial)).map (fun y => { y with state := .sending }) }).mapEntries
    k x.serial (fun r => { r with sending := true }) x.pages
  ⟨(h.quiet q).1, (h.quiet q).2⟩

theorem deliverSent (h : KeepsShed s t) (k : Handle) (x : Slot) : KeepsShed s (t.deliverSent k x) :=
  ((((h.setStream k _).startFrame k x).bumpIndex k).setStream k _).advancePosition k

theorem starveCheck (h : KeepsShed s t) (k : Handle) : KeepsShed s (t.starveCheck k) := by
  unfold State.starveCheck
  dsimp only
  split
  · exact h.pauseFor k _ _
  · exact h

theorem deliverGap (h : KeepsShed s t) (k : Handle) (x : Slot) (cause : GapCause) :
    KeepsShed s (t.deliverGap k x cause) := by
  have gapped (r : Stream) (m : FloorControl) : KeepsShed s
      (((((t.bumpIndex k).setStream k r).placeControl (some k) m).detachSlot k x.serial).advancePosition k |>.topUp k) :=
    (((((h.bumpIndex k).setStream k r).placeControl _ m).quiet ((Quiet.refl _).detachSlot k _)).advancePosition
      k).quiet ((Quiet.refl _).topUp k)
  unfold State.deliverGap
  dsimp only
  split
  · exact (gapped _ _).endOfClip k
  · exact (gapped _ _).starveCheck k

theorem decideDue (h : KeepsShed s t) (k : Handle) : KeepsShed s (t.decideDue k) := by
  unfold State.decideDue
  split
  · exact h.setCadence k _
  · exact h.deliverSent k _
  · exact h.deliverGap k _ _

theorem settleWait (h : KeepsShed s t) (k : Handle) : KeepsShed s (t.settleWait k) := by
  unfold State.settleWait
  split
  · split
    · exact h
    · exact (h.takeAnchor k _).deliverSent k _
    · exact (h.takeAnchor k _).deliverGap k _ _
  · exact h

theorem enterPlaying (h : KeepsShed s t) (k : Handle) : KeepsShed s (t.enterPlaying k) := by
  unfold State.enterPlaying
  dsimp only
  split
  · split
    · exact h
    · exact h.pauseFor k _ _
  · exact ((((h.setStream k _).setCadence k _).takeAnchor k _).notify k _).decideDue k

theorem reportPriming (h : KeepsShed s t) (k : Handle) : KeepsShed s (t.reportPriming k) := by
  unfold State.reportPriming State.completePriming
  dsimp only
  split
  · split
    · exact (h.setStream k _).enterPlaying k
    · exact ((h.setStream k _).moveTo k _).notify k _
  · exact h

theorem windowChanged (h : KeepsShed s t) (k : Handle) : KeepsShed s (t.windowChanged k) := by
  unfold State.windowChanged
  split
  · exact h.reportPriming k
  · exact h.settleWait k

theorem endNegotiation (h : KeepsShed s t) (k : Handle) (r : Rendition) (reason : Reason) :
    KeepsShed s (t.endNegotiation k r reason) := (((h.setStream k _).moveTo k .idle).reserve k).notify k reason

theorem demote (h : KeepsShed s t) (k : Handle) : KeepsShed s (t.demote k) := by
  unfold State.demote
  dsimp only
  split
  · exact h
  · split
    · exact h
    · split
      · exact (h.setStream k _).endNegotiation k _ _
      · split
        · exact h
        · exact (((h.setStream k _).quiet ((Quiet.refl _).rebuild k)).notify k _).windowChanged k

theorem shallow (h : KeepsShed s t) (k : Handle) : KeepsShed s (t.shallow k) := by
  unfold State.shallow
  dsimp only
  split
  · exact h
  · exact ((((h.setStream k _).reserve k).quiet ((Quiet.refl _).reduceWindow k)).notify k _).reportPriming k

theorem shedPause (h : KeepsShed s t) (k : Handle) : KeepsShed s (t.shedPause k) := by
  unfold State.shedPause
  split
  · exact h.pauseFor k _ _
  · exact (h.setStream k _).pauseFor k _ _
  · exact h

theorem applyRule (h : KeepsShed s t) (r : RuleNumber) (act : ShedAction) (l : List Handle) :
    KeepsShed s (t.applyRule r act l) := by
  induction l generalizing t with
  | nil => exact h
  | cons k l ih =>
    refine ih ?_
    cases act with
    | demote => exact (h.setStream k _).demote k
    | shallow => exact (h.setStream k _).shallow k
    | pause => exact (h.setStream k _).shedPause k

/-- A trip moves the state of its own rule, and nothing else of the pressure monitor and the shed controller. -/
theorem trip (s : State) (r : RuleNumber) : KeepsShed (s.setRule r .tripped) (s.trip r) :=
  ((KeepsShed.refl (s.setRule r .tripped)).pushNotice _).applyRule r _ _

end KeepsShed

/-! ## The evaluation of rules (R169) -/

/-- A rule's source stands at the level that the rule matches. -/
abbrev State.Matches (s : State) (r : RuleNumber) : Prop := s.level (s.rule r).source = (s.rule r).level

/-- Which rules match is decided by the rules, the comparators and the quiesce state. -/
theorem State.matches_congr {s t : State} (tables : t.tables = s.tables) (pressure : t.pressure = s.pressure)
    (array : t.array = s.array) (r : RuleNumber) : t.Matches r ↔ s.Matches r := by
  have level : t.level = s.level := by
    funext src
    unfold State.level
    rw [pressure, array]
  have rule : t.rule r = s.rule r := by
    unfold State.rule
    rw [tables]
  unfold State.Matches
  rw [level, rule]

theorem State.matches_trip (s : State) (k r : RuleNumber) : (s.trip k).Matches r ↔ s.Matches r :=
  State.matches_congr ((Keeps.refl s).trip k).tables (KeepsShed.trip s k).pressure ((Keeps.refl s).trip k).array r

theorem State.ruleState_trip (s : State) (k r : RuleNumber) :
    (s.trip k).ruleState r = if r = k then .tripped else s.ruleState r := by
  unfold State.ruleState
  rw [(KeepsShed.trip s k).rules]
  by_cases e : r = k
  · subst e
    simp [State.setRule]
  · have ne : (k : Nat) ≠ r := fun x => e (Fin.ext x.symm)
    simp [State.setRule, e, ne]

/-- The rules that an evaluation trips are those that match at its start: no trip changes a match. -/
theorem State.evaluate_eq_foldl (s : State) (l : List RuleNumber) : ∀ q : State, (∀ r, q.Matches r ↔ s.Matches r) →
    q.evaluate l = l.foldl (fun q r => if q.ruleState r = .armed ∧ s.Matches r then q.trip r else q) q := by
  induction l with
  | nil => intro q _; rfl
  | cons k l ih =>
    intro q same
    rw [List.foldl_cons, State.evaluate]
    have key : q.level (q.rule k).source = (q.rule k).level ↔ s.Matches k := same k
    simp only [key]
    split
    · exact ih _ fun r => (q.matches_trip k r).trans (same r)
    · exact ih _ same

theorem State.pressure_evaluate (l : List RuleNumber) : ∀ q : State, (q.evaluate l).pressure = q.pressure := by
  induction l with
  | nil => intro q; rfl
  | cons k l ih =>
    intro q
    unfold State.evaluate
    split
    · exact (ih _).trans (KeepsShed.trip q k).pressure
    · exact ih q

/-- After an evaluation, an ARMED rule of the list that matches is TRIPPED, and every other rule is as it was. -/
theorem State.ruleState_evaluate (l : List RuleNumber) (r : RuleNumber) : ∀ q : State, (q.evaluate l).ruleState r
    = if r ∈ l ∧ q.ruleState r = .armed ∧ q.Matches r then .tripped else q.ruleState r := by
  induction l with
  | nil => intro q; simp [State.evaluate]
  | cons k l ih =>
    intro q
    unfold State.evaluate
    by_cases fires : q.ruleState k = .armed ∧ q.level (q.rule k).source = (q.rule k).level
    · rw [if_pos fires, ih]
      simp only [State.ruleState_trip, State.matches_trip]
      by_cases e : r = k
      · subst e
        have : q.ruleState r = .armed ∧ q.Matches r := fires
        simp [this]
      · simp [e]
    · rw [if_neg fires, ih]
      by_cases e : r = k
      · subst e
        have : ¬ (q.ruleState r = .armed ∧ q.Matches r) := fires
        simp [this]
      · simp [e]

/-! ## COMMIT (R16, R167, R192) -/

theorem mem_ruleNumbers (r : RuleNumber) : r ∈ ruleNumbers := by revert r; decide

theorem State.anyTripped_iff (s : State) : s.anyTripped = true ↔ ∃ r : RuleNumber, s.ruleState r = .tripped := by
  simp [State.anyTripped, mem_ruleNumbers]

theorem Comparator.level_swap (c : Comparator) (x y : Settings) : (c.swap x y).level = c.level := by
  unfold Comparator.swap
  split <;> rfl

/-- What becomes of a staged entry at the swap (R16), by the active entry of its clip ID. -/
theorem Bank.committed_eq (old : Bank) (g : Word) (c : Clip) : old.committed g c = match old.clip c.clipId with
    | some x => if c.sameFields x then x else { c with edition := some g }
    | none => { c with edition := some g } := by
  unfold Bank.committed
  cases old.clip c.clipId <;> rfl

theorem Bank.retires_eq (new : Bank) (x : Clip) : new.retires x = match new.clip x.clipId with
    | some c => !c.sameFields x
    | none => true := by
  unfold Bank.retires
  cases new.clip x.clipId <;> rfl

/-- The pressure monitor at a swap, by the settings before and after it (R167). -/
def PressureMonitor.swap (p : PressureMonitor) (old new : ShedSettings) : PressureMonitor :=
  { lat1 := p.lat1.swap old.lat1 new.lat1, lat2 := p.lat2.swap old.lat2 new.lat2, tags := p.tags.swap old.tags new.tags }

/-- The part at a swap, before its rules are evaluated. -/
def State.swapped (s : State) (asker : Half) (req : Word) : State :=
  { s with
    tables := s.tables.swap asker req
    pressure := s.pressure.swap s.tables.active.shed s.tables.staged.shed
    rules := s.tables.staged.shed.rules.map (fun x => if x.enable then RuleState.armed else RuleState.disarmed) }

theorem State.swap_eq_evaluate (s : State) (asker : Half) (req : Word) :
    s.swap asker req = (s.swapped asker req).evaluate ruleNumbers := rfl

theorem State.level_swapped (s : State) (asker : Half) (req : Word) (src : Source) :
    (s.swapped asker req).level src = s.level src := by
  cases src with
  | lat1 => exact Comparator.level_swap ..
  | lat2 => exact Comparator.level_swap ..
  | tags => exact Comparator.level_swap ..
  | quiesced => rfl

theorem State.rule_swapped (s : State) (asker : Half) (req : Word) (r : RuleNumber) :
    (s.swapped asker req).rule r = s.tables.staged.shed.rules[r] := rfl

theorem State.ruleState_swapped (s : State) (asker : Half) (req : Word) (r : RuleNumber) :
    (s.swapped asker req).ruleState r
      = if s.tables.staged.shed.rules[r].enable then RuleState.armed else RuleState.disarmed := by
  simp [State.ruleState, State.swapped]

theorem State.matches_swapped (s : State) (asker : Half) (req : Word) {r : RuleNumber} {x : ShedRule}
    (h : s.tables.staged.shed.rules[r] = x) : (s.swapped asker req).Matches r ↔ s.level x.source = x.level := by
  unfold State.Matches
  rw [State.level_swapped, State.rule_swapped, h]

/-- The state of a rule after a swap (R167). -/
theorem State.ruleState_swap (s : State) (asker : Half) (req : Word) {r : RuleNumber} {x : ShedRule}
    (h : s.tables.staged.shed.rules[r] = x) : (s.swap asker req).ruleState r
      = if x.enable then if s.level x.source = x.level then .tripped else .armed else .disarmed := by
  rw [State.swap_eq_evaluate, State.ruleState_evaluate]
  simp only [State.ruleState_swapped, State.matches_swapped s asker req h, h, mem_ruleNumbers, true_and]
  cases x.enable <;> simp

theorem exec_commit {s : State} {a : Arrival} (taking : s.Taking .array a.src) (len : 8 ≤ a.len) (req : Word) :
    exec (.commit a req) s = .next (State.settle ((s.stamp a.time).takeCommit a req)) := by
  change execCommit a req s = _
  unfold execCommit
  rw [State.arrive_taken taking, State.readableManage_of_le len]

theorem RenditionRecord.sameGeometry_iff (x y : RenditionRecord) : x.sameGeometry y = true ↔
    x.volume = y.volume ∧ x.frameBlocks = y.frameBlocks ∧ x.frameCount = y.frameCount ∧ x.extents = y.extents := by
  simp [RenditionRecord.sameGeometry, and_assoc]

theorem Clip.sameFields_iff (x y : Clip) : x.sameFields y = true ↔
    x.clipId = y.clipId ∧ x.numerator = y.numerator ∧ x.denominator = y.denominator
      ∧ x.firstTimecode = y.firstTimecode ∧ x.primary.sameGeometry y.primary = true
      ∧ (x.proxy = none ∧ y.proxy = none
        ∨ ∃ p q, x.proxy = some p ∧ y.proxy = some q ∧ p.sameGeometry q = true) := by
  unfold Clip.sameFields
  cases x.proxy <;> cases y.proxy <;> simp [and_assoc]

/-- Settles O47: the refusals in their order, and the swap with the rules evaluated one by one under the new tables. -/
theorem commitChecksAndSwaps : Obligations.CommitChecksAndSwaps := by
  refine ⟨fun s a req taking len => ?verb, fun x y => ?fields⟩
  case fields =>
    intro same
    rw [Clip.sameFields_iff]
    simp only [RenditionRecord.sameGeometry_iff]
    rfl
  case verb =>
    intro v refused
    have idle : v.walking = s.walking := rfl
    have staged : v.tables = s.tables := rfl
    have sum : v.reservationSum = s.reservationSum := rfl
    have tripped : v.anyTripped = true ↔ ∃ r : RuleNumber, s.ruleState r = .tripped := v.anyTripped_iff
    unfold refused
    rw [exec_commit taking len]
    change (_ → Host.Outcome.next (v.takeCommit a req).settle = _) ∧ _
    unfold State.takeCommit
    rw [idle, staged, sum]
    refine ⟨fun walking => ?_, fun still long => ?_, fun still short => ⟨fun trips => ?_, fun untripped => ⟨?_, ?_⟩⟩⟩
    · rw [if_pos walking]
      rfl
    · rw [still, if_neg Bool.false_ne_true, if_pos long]
      rfl
    · rw [still, if_neg Bool.false_ne_true, if_neg (not_not.2 short), if_pos (tripped.2 trips)]
      rfl
    · intro low
      rw [still, if_neg Bool.false_ne_true, if_neg (not_not.2 short), if_neg (fun trips => absurd (tripped.1 trips) (not_exists.2 untripped)), if_pos low]
      rfl
    · intro fits g old new entry leaves tables swap pressure fresh u
      rw [still, if_neg Bool.false_ne_true, if_neg (not_not.2 short), if_neg (fun trips => absurd (tripped.1 trips) (not_exists.2 untripped)),
        if_neg (Nat.not_lt.2 fits)]
      have store : s.tables.swap a.src req = tables := by
        have entries : old.committed g = entry := funext fun c => old.committed_eq g c
        have leaving : new.retires = leaves := funext fun x => new.retires_eq x
        unfold tables
        rw [← entries, ← leaving]
        rfl
      have start : v.swapped a.src req = fresh := by
        unfold State.swapped fresh
        rw [staged, store]
        rfl
      have matching (r : RuleNumber) :
          fresh.Matches r ↔ s.level new.shed.rules[r].source = new.shed.rules[r].level := by
        rw [← start]
        exact v.matches_swapped a.src req rfl
      have folded : v.swap a.src req = u := by
        rw [State.swap_eq_evaluate, start, State.evaluate_eq_foldl fresh _ fresh fun _ => Iff.rfl]
        simp only [matching]
        rfl
      have evaluated : u = fresh.evaluate ruleNumbers := by rw [← folded, State.swap_eq_evaluate, start]
      refine ⟨by rw [folded], ?_, ?_, fun r => ?_⟩
      · rw [evaluated]
        exact ((Keeps.refl fresh).evaluate _).tables
      · rw [evaluated]
        exact State.pressure_evaluate _ fresh
      · intro x
        have state : u.ruleState r
            = if x.enable then if s.level x.source = x.level then .tripped else .armed else .disarmed := by
          rw [← folded]
          exact v.ruleState_swap a.src req rfl
        rw [state]
        refine ⟨fun off => ?_, fun on at_level => ?_, fun on away => ?_⟩
        · rw [off, if_neg Bool.false_ne_true]
        · rw [if_pos on, if_pos at_level]
        · rw [if_pos on, if_neg away]

end Sys2Proof.Machine
end

section
/-! PROOFS. Delivery events: what a sent head and a gapped head change. -/

namespace Sys2Proof.Machine

open Sys2Proof

variable {s t : State} {h : Handle}

/-! ## Referrer entries: the change reaches the span buffer alone -/

/-- A span that is not FILLING takes the changed entries. -/
theorem Span.told_of_not_filling {x : Span} (n : ∀ f : Fetch, x.state ≠ .filling f) (serial : Nat)
    (g : Referrer → Referrer) : x.told h serial g = { x with refs := mapReferrer h serial g x.refs } := by
  unfold Span.told Span.redeadline
  split
  · rename_i f e
    exact absurd e (n f)
  · rfl
  · rfl

/-- A FILLING span takes the changed entries, and its fetch their earliest deadline. -/
theorem Span.told_of_filling {x : Span} {f : Fetch} (e : x.state = .filling f) {serial : Nat}
    {g : Referrer → Referrer} (used : mapReferrer h serial g x.refs ≠ []) : x.told h serial g
      = { x with refs := mapReferrer h serial g x.refs
                 state := .filling { f with deadline := earliest (mapReferrer h serial g x.refs) } } := by
  unfold Span.told Span.redeadline
  simp only [e, List.isEmpty_iff, if_neg used]

/-- Two states with the same span buffer tell the same spans, and nothing else changes. -/
theorem State.mapEntries_withBuffer (serial : Nat) (g : Referrer → Referrer) (l : List PageEntry) :
    ∀ s t : State, t.buffer = s.buffer →
      t.mapEntries h serial g l = { t with buffer := (s.mapEntries h serial g l).buffer } := by
  induction l with
  | nil =>
    intro s t e
    unfold State.mapEntries
    rw [← e]
  | cons a l ih =>
    intro s t e
    have one : t.mapEntry h serial g a = { t with buffer := (s.mapEntry h serial g a).buffer } := by
      unfold State.mapEntry
      cases a.span with
      | none => simp only [e]
      | some i =>
        simp only [e]
        cases s.buffer.span i with
        | none => simp only [← e]
        | some x => simp only [State.putSpan, e]
    unfold State.mapEntries
    rw [ih (s.mapEntry h serial g a) (t.mapEntry h serial g a) (by rw [one]), one]

/-- What a change of a slot's entries makes of one span, by whether the slot names the span and by its state. -/
theorem State.span_mapEntries_cases {serial i : Nat} {g : Referrer → Referrer} (once : ∀ r, g (g r) = g r)
    (l : List PageEntry) {x : Span} (hx : s.buffer.span i = some x) :
    ((∀ e ∈ l, e.span ≠ some i) → (s.mapEntries h serial g l).buffer.span i = some x)
    ∧ ((∃ e ∈ l, e.span = some i) →
      ((∀ f : Fetch, x.state ≠ .filling f) → (s.mapEntries h serial g l).buffer.span i
        = some { x with refs := mapReferrer h serial g x.refs })
      ∧ ∀ f : Fetch, x.state = .filling f → mapReferrer h serial g x.refs ≠ [] →
        (s.mapEntries h serial g l).buffer.span i = some { x with
          refs := mapReferrer h serial g x.refs
          state := .filling { f with deadline := earliest (mapReferrer h serial g x.refs) } }) := by
  rw [State.span_mapEntries once l s x hx]
  refine ⟨fun unnamed => if_neg ?_, fun named => ⟨fun n => ?_, fun f e used => ?_⟩⟩
  · rintro ⟨e, he, hi⟩
    exact unnamed e he hi
  · rw [if_pos named, Span.told_of_not_filling n]
  · rw [if_pos named, Span.told_of_filling e used]

/-! ## The advance of a window (R67) -/

/-- The position after an advance, by what is left of the window. -/
def advancedPosition (frames : List Nat) (cursor : Option Nat) (position : Nat) : Nat :=
  match frames, cursor with
  | f :: _, _ => f
  | [], some f => f
  | [], none => position

theorem advancedPosition_map (rest : List Slot) (cursor : Option Nat) (position : Nat) :
    advancedPosition (rest.map Slot.frame) cursor position = match rest, cursor with
      | y :: _, _ => y.frame
      | [], some f => f
      | [], none => position := by
  cases rest <;> cases cursor <;> rfl

theorem State.advancePosition_eq (s : State) (h : Handle) : s.advancePosition h = s.setStream h { s.stream h with
    position := advancedPosition ((s.window h).slots.map Slot.frame) (s.window h).cursor (s.stream h).position } := by
  unfold State.advancePosition
  dsimp only
  cases (s.window h).slots with
  | cons y l => rfl
  | nil =>
    cases (s.window h).cursor with
    | some f => rfl
    | none => exact (s.setStream_self h).symm

/-! ## A sent head -/

/-- The entry of a slot takes the sending indication. -/
abbrev markSending (r : Referrer) : Referrer := { r with sending := true }

/-- The head becomes SENDING: it moves from window to sending set, the spans that it names are told, and its record joins
the delivery queue. -/
theorem State.startFrame_eq {x : Slot} {rest : List Slot} (head : (t.window h).slots = x :: rest)
    (other : ∀ y ∈ rest, y.serial ≠ x.serial) (same : t.buffer = s.buffer) :
    t.startFrame h x = State.setWindow
      { t with buffer := (s.mapEntries h x.serial markSending x.pages).buffer
               tx := { t.tx with queue := t.tx.queue ++ [t.deliveryOf h x] } } h
      { slots := rest, sending := (t.window h).sending ++ [{ x with state := .sending }]
        cursor := (t.window h).cursor } := by
  have leaves : (x :: rest).filter (fun y => y.serial != x.serial) = rest := by
    rw [List.filter_cons_of_neg (by simp), List.filter_eq_self]
    intro y hy
    simpa using other y hy
  have joins : (x :: rest).filter (fun y => y.serial == x.serial) = [x] := by
    rw [List.filter_cons_of_pos (by simp), List.filter_eq_nil_iff.2]
    intro y hy
    simpa using other y hy
  unfold State.startFrame
  dsimp only
  rw [head, leaves, joins, State.mapEntries_withBuffer x.serial markSending x.pages s (State.setWindow ..) same]
  rfl

/-- A cadence that runs on to the next index. -/
def Cadence.bumped (c : Cadence) : Cadence :=
  { c with index := c.index + 1, nextDue := some (Cadence.due { c with index := c.index + 1 }) }

theorem Cadence.bumped_of_rate {c : Cadence} {n d : Nat} (rate : c.rate = some (n, d)) : c.bumped
    = { c with index := c.index + 1, nextDue := some (c.anchor + (c.index + 1) * d * 1000000 / n) } := by
  simp only [Cadence.bumped, Cadence.due, rate, rateOffset, offset]

theorem State.bumpIndex_playing (playing : (s.stream h).state = .playing) (running : (s.cadence h).headWait = false) :
    s.bumpIndex h = s.setCadence h (s.cadence h).bumped := by
  unfold State.bumpIndex
  dsimp only
  rw [if_pos ⟨playing, running⟩]
  rfl

/-- The record of a stream whose head has been sent. -/
def Stream.sent (r : Stream) (position : Nat) : Stream :=
  { r with credit := r.credit - 1, delivered := r.delivered + 1, gaps := 0, position := position }

/-- The window once its head is SENDING. -/
def Window.sent (w : Window) (x : Slot) (rest : List Slot) : Window :=
  { slots := rest, sending := w.sending ++ [{ x with state := .sending }], cursor := w.cursor }

/-- The delivery event of a sent head, field by field. -/
theorem State.deliverSent_eq {x : Slot} {rest : List Slot} (head : (s.window h).slots = x :: rest)
    (other : ∀ y ∈ rest, y.serial ≠ x.serial) (playing : (s.stream h).state = .playing)
    (running : (s.cadence h).headWait = false) :
    s.deliverSent h x = State.setStream (State.setCadence (State.setWindow
      { s with buffer := (s.mapEntries h x.serial markSending x.pages).buffer
               tx := { s.tx with queue := s.tx.queue ++ [s.deliveryOf h x] } } h
      ((s.window h).sent x rest)) h (s.cadence h).bumped) h
      ((s.stream h).sent (advancedPosition (rest.map Slot.frame) (s.window h).cursor (s.stream h).position)) := by
  let credited : Stream := { s.stream h with credit := (s.stream h).credit - 1 }
  have record : (s.setStream h credited).deliveryOf h x = s.deliveryOf h x := by
    unfold State.deliveryOf
    rw [State.stream_setStream]
    rfl
  have started := State.startFrame_eq (t := s.setStream h credited) (s := s) head other rfl
  rw [record] at started
  set q := (s.setStream h credited).startFrame h x
  have stream : q.stream h = credited := by rw [started]; exact s.stream_setStream h credited
  have bumped : q.bumpIndex h = q.setCadence h (s.cadence h).bumped := by
    have cadence : q.cadence h = s.cadence h := by rw [started]; rfl
    rw [State.bumpIndex_playing (by rw [stream]; exact playing) (by rw [cadence]; exact running), cadence]
  have window : q.window h = (s.window h).sent x rest := by
    rw [started, State.window_setWindow]
    rfl
  have sent : s.deliverSent h x
      = (q.setCadence h (s.cadence h).bumped).setStream h
        ((s.stream h).sent (advancedPosition (rest.map Slot.frame) (s.window h).cursor (s.stream h).position)) := by
    change State.advancePosition (State.setStream (q.bumpIndex h) h
      { (q.bumpIndex h).stream h with delivered := ((q.bumpIndex h).stream h).delivered + 1, gaps := 0 }) h = _
    rw [bumped, State.stream_setCadence, stream, State.advancePosition_eq, State.stream_setStream,
      State.setStream_setStream, State.window_setStream, State.window_setCadence, window]
    rfl
  rw [sent, started]
  simp only [State.setStream, State.setCadence, State.setWindow, Vector.set_set]
  rfl

/-! ## A gapped head -/

/-- Placing a message about a stream can set that stream's notice-lost flag, and touches no other part of a record. -/
theorem State.stream_placeControl (s : State) (h : Handle) (m : FloorControl) :
    ∃ lost : Bool, (s.placeControl (some h) m).stream h = { s.stream h with noticeLost := lost } := by
  unfold State.placeControl State.loseNotice
  split
  · exact ⟨_, rfl⟩
  · split
    · exact ⟨_, rfl⟩
    · dsimp only
      split
      · exact ⟨true, s.stream_setStream h _⟩
      · exact ⟨_, rfl⟩

theorem State.window_placeControl (s : State) (k : Option Handle) (m : FloorControl) (h : Handle) :
    (s.placeControl k m).window h = s.window h := by
  unfold State.placeControl State.loseNotice
  split
  · rfl
  · split
    · rfl
    · split
      · split <;> rfl
      · rfl

theorem State.placeControl_room {m : FloorControl} (room : s.RoomFor 1) (k : Option Handle) :
    (s.placeControl k m).tx.control = s.tx.control ++ [m] := by
  obtain ⟨up, length⟩ := room
  have places : s.controlRoom = true := decide_eq_true (by omega)
  unfold State.placeControl
  rw [up, if_neg (by decide), if_pos places]
  rfl

/-- The slots that stay when the head is detached. -/
theorem State.detachHead_window {x : Slot} {rest : List Slot} (head : (s.window h).slots = x :: rest)
    (other : ∀ y ∈ rest, y.serial ≠ x.serial) :
    ((s.detachSlot h x.serial).window h).slots.map Slot.frame = rest.map Slot.frame
      ∧ ((s.detachSlot h x.serial).window h).cursor = (s.window h).cursor := by
  obtain ⟨slots, -, cursor⟩ := s.detachSlot_window h x.serial
  refine ⟨?_, cursor⟩
  have gone : ¬ (x.identity.1 != x.serial) = true := by simp [Slot.identity]
  have stay : (rest.map Slot.identity).filter (fun m => m.1 != x.serial) = rest.map Slot.identity := by
    rw [List.filter_eq_self]
    intro m hm
    obtain ⟨y, hy, rfl⟩ := List.mem_map.1 hm
    simpa [Slot.identity] using other y hy
  rw [head, List.map_cons, List.filter_cons, if_neg gone, stay] at slots
  have frames := congrArg (List.map (fun m => m.2.1)) slots
  rw [List.map_map, List.map_map] at frames
  exact frames

/-- A stream's record when its head is a gap. -/
theorem Stream.countGap_eq (r : Stream) : r.countGap
    = { r with gapped := r.gapped + 1, gaps := if r.late = .skip then min 255 (r.gaps + 1) else r.gaps } := rfl

/-- A gap up to its FG: the index moves on, the gap is counted, and the FG is placed. -/
def State.gapPlaced (s : State) (h : Handle) (x : Slot) (why : GapCause) : State :=
  ((s.setCadence h (s.cadence h).bumped).setStream h (s.stream h).countGap).placeControl (some h)
    (.fg ((s.stream h).owner.getD 0) h why x.frame)

/-- A gap up to its last check: the head is detached, the position moves on, and the window is topped up. -/
def State.gapAdvanced (s : State) (h : Handle) (x : Slot) (why : GapCause) : State :=
  (((s.gapPlaced h x why).detachSlot h x.serial).advancePosition h).topUp h

theorem State.deliverGap_eq (playing : (s.stream h).state = .playing) (running : (s.cadence h).headWait = false)
    (x : Slot) (why : GapCause) : s.deliverGap h x why
      = if ((s.gapAdvanced h x why).stream h).state = .playing ∧ ((s.gapAdvanced h x why).window h).bare then
          (s.gapAdvanced h x why).endOfClip h
        else (s.gapAdvanced h x why).starveCheck h := by
  unfold State.gapAdvanced State.gapPlaced State.deliverGap
  dsimp only
  rw [State.bumpIndex_playing playing running, State.stream_setCadence, State.stream_setStream]
  rfl

theorem State.tables_gapPlaced (s : State) (h : Handle) (x : Slot) (why : GapCause) :
    (s.gapPlaced h x why).tables = s.tables :=
  ((Keeps.refl ((s.setCadence h (s.cadence h).bumped).setStream h (s.stream h).countGap)).placeControl _ _).tables

/-- What follows the placing of the FG can only add messages after it. -/
theorem State.gapAdvanced_keeps (s : State) (h : Handle) (x : Slot) (why : GapCause) :
    Keeps (s.gapPlaced h x why) (s.gapAdvanced h x why) :=
  (((Keeps.refl _).detachSlot h _).advancePosition h).topUp h

theorem State.window_gapPlaced (s : State) (h : Handle) (x : Slot) (why : GapCause) :
    (s.gapPlaced h x why).window h = s.window h := State.window_placeControl ..

theorem State.stream_gapPlaced (s : State) (h : Handle) (x : Slot) (why : GapCause) :
    ∃ lost : Bool, (s.gapPlaced h x why).stream h = { (s.stream h).countGap with noticeLost := lost } := by
  have placed := State.stream_placeControl ((s.setCadence h (s.cadence h).bumped).setStream h (s.stream h).countGap) h
    (.fg ((s.stream h).owner.getD 0) h why x.frame)
  rwa [State.stream_setStream] at placed

/-- The record of a stream at the last check of a gap. -/
theorem State.stream_gapAdvanced {x : Slot} {rest : List Slot} (head : (s.window h).slots = x :: rest)
    (other : ∀ y ∈ rest, y.serial ≠ x.serial) (why : GapCause) :
    ∃ lost : Bool, (s.gapAdvanced h x why).stream h = { (s.stream h).countGap with
      noticeLost := lost
      position := advancedPosition (rest.map Slot.frame) (s.window h).cursor (s.stream h).position } := by
  have window := s.window_gapPlaced h x why
  obtain ⟨lost, placed⟩ := s.stream_gapPlaced h x why
  obtain ⟨frames, cursor⟩ := State.detachHead_window (s := s.gapPlaced h x why) (by rw [window]; exact head) other
  refine ⟨lost, ?_⟩
  unfold State.gapAdvanced
  rw [((Quiet.refl _).topUp h).stream h, State.advancePosition_eq, State.stream_setStream,
    ((Quiet.refl _).detachSlot h x.serial).stream h, frames, cursor, window, placed]
  rfl

theorem Window.bare_iff (w : Window) : w.bare = true ↔ w.slots = [] ∧ w.sending = [] := by
  simp [Window.bare]

/-- The end of a clip, written out (R42). -/
theorem State.endOfClip_eq (s : State) (h : Handle) : s.endOfClip h
    = ((((s.setStream h { s.stream h with
        position := (sequenceFrame (s.frameCount (s.stream h)) (s.stream h).position (s.stream h).stride
          (framesRemaining (s.frameCount (s.stream h)) (s.stream h).position (s.stream h).stride - 1)).getD
            (s.stream h).position
        state := .idle, pauseReason := none }).stopCadence h).detachWindow h).detachSending h).notify h .ended := by
  have last : s.lastFrame (s.stream h) = (sequenceFrame (s.frameCount (s.stream h)) (s.stream h).position
      (s.stream h).stride (framesRemaining (s.frameCount (s.stream h)) (s.stream h).position (s.stream h).stride
        - 1)).getD (s.stream h).position := by
    unfold State.lastFrame
    split
    · rename_i f e
      rw [e, Option.getD_some]
    · rename_i e
      rw [e, Option.getD_none]
  unfold State.endOfClip State.moveTo
  dsimp only
  rw [State.stream_setStream, State.setStream_setStream, last]

/-- Settles O53: a sent head field by field, and a gapped head up to its last check, which decides what follows. -/
theorem deliveryEventsAdvanceTheStream : Obligations.DeliveryEventsAdvanceTheStream := by
  intro s h x rest head other playing running r c w
  refine ⟨?sent, fun why o owner => ?gapped⟩
  case sent =>
    intro u
    have sent : u = _ := State.deliverSent_eq head other playing running
    have keeps := (Keeps.refl s).deliverSent h x
    refine ⟨fun n d rate => ?_, ?_, ?_, ⟨s.deliveryOf h x, ?_, rfl, rfl, rfl, rfl, rfl, fun o owner => ?_,
      fun k clip => ?_, ?_, rfl⟩, fun _ => rfl, fun i y span => ?_, fun j ne => ⟨?_, ?_, ?_⟩, keeps.memory, keeps.tables⟩
    · rw [sent, State.cadence_setStream, State.cadence_setCadence, Cadence.bumped_of_rate rate]
    · rw [sent, State.stream_setStream]
      exact congrArg r.sent (advancedPosition_map rest w.cursor r.position)
    · rw [sent, State.window_setStream, State.window_setCadence, State.window_setWindow]
      rfl
    · rw [sent]
      rfl
    · change r.owner.getD 0 = o
      rw [owner, Option.getD_some]
    · unfold State.deliveryOf
      dsimp only
      rw [clip]
    · change (x.rendition == Rendition.proxy) = true ↔ _
      rw [beq_iff_eq]
    · have buffer : u.buffer = (s.mapEntries h x.serial markSending x.pages).buffer := by rw [sent]; rfl
      rw [buffer]
      exact State.span_mapEntries_cases (g := markSending) (fun _ => rfl) x.pages span
    · rw [sent, State.stream_setStream_of_ne _ (Ne.symm ne)]
      rfl
    · rw [sent, State.window_setStream, State.window_setCadence, State.window_setWindow_of_ne _ (Ne.symm ne)]
      rfl
    · rw [sent, State.cadence_setStream, State.cadence_setCadence_of_ne _ (Ne.symm ne)]
      rfl
  case gapped =>
    intro u
    have outcome : u = _ := State.deliverGap_eq playing running x why
    have dst : (s.stream h).owner.getD 0 = o := by
      change r.owner.getD 0 = o
      rw [owner, Option.getD_some]
    refine ⟨fun room => ?placed, fun n d rate => ?gap⟩
    case placed =>
      have front : (s.gapPlaced h x why).tx.control = s.tx.control ++ [.fg o h why x.frame] := by
        unfold State.gapPlaced
        rw [dst]
        exact State.placeControl_room (s := (s.setCadence h (s.cadence h).bumped).setStream h r.countGap) room (some h)
      rw [← front, outcome]
      split
      · exact ((s.gapAdvanced_keeps h x why).endOfClip h).placed
      · exact ((s.gapAdvanced_keeps h x why).starveCheck h).placed
    case gap =>
      intro gaps due p q position v z frames bare starved
      have place : p = s.gapPlaced h x why := by
        unfold p State.gapPlaced
        rw [Cadence.bumped_of_rate rate, dst]
        rfl
      have moved : advancedPosition (rest.map Slot.frame) w.cursor r.position = position :=
        advancedPosition_map rest w.cursor r.position
      have window : p.window h = w := by
        rw [place]
        exact s.window_gapPlaced h x why
      obtain ⟨left, cursor⟩ := State.detachHead_window (s := p) (h := h) (by rw [window]; exact head) other
      have cursor : (q.window h).cursor = w.cursor := by rw [← window]; exact cursor
      have advanced : v = s.gapAdvanced h x why := by
        have stays : (q.stream h).position = r.position := by
          obtain ⟨lost, record⟩ := s.stream_gapPlaced h x why
          rw [((Quiet.refl p).detachSlot h x.serial).stream h, place, record]
          rfl
        unfold v State.gapAdvanced
        rw [← place, State.advancePosition_eq, left, cursor, stays, moved]
      obtain ⟨lost, record⟩ := State.stream_gapAdvanced head other why
      rw [← advanced, moved] at record
      have record : z = { r.countGap with noticeLost := lost, position := position } := record
      have plays : z.state = .playing := by rw [record]; exact playing
      have tables : v.tables = s.tables := by
        rw [advanced]
        exact ((s.gapAdvanced_keeps h x why).tables).trans (s.tables_gapPlaced h x why)
      have outcome : u = if z.state = .playing ∧ (v.window h).bare then v.endOfClip h else v.starveCheck h := by
        unfold z
        rw [advanced]
        exact outcome
      have check : v.starveCheck h = if starved then v.pauseFor h .starved .starved else v := by
        have late : z.late = r.late := by rw [record]; rfl
        have count : z.gaps = gaps := by rw [record]; rfl
        unfold State.starveCheck
        dsimp only
        simp only [show (v.stream h) = z from rfl, plays, late, count, tables, true_and]
        rfl
      refine ⟨left, cursor, ?_, fun ends => ?_, fun lasts starves => ?_, fun lasts feeds => ?_⟩
      · rw [record]
        rfl
      · rw [outcome, if_pos ⟨plays, (Window.bare_iff _).2 ends⟩, State.endOfClip_eq]
      · rw [outcome, if_neg (fun e => lasts ((Window.bare_iff _).1 e.2)), check, if_pos starves]
        rfl
      · rw [outcome, if_neg (fun e => lasts ((Window.bare_iff _).1 e.2)), check, if_neg feeds]

end Sys2Proof.Machine
end

section
/-! PROOFS. The frame sequence of a window, the page list of a frame, and what the span buffer does for one slot: attach,
take, detach. -/

namespace Sys2Proof.Machine

open Sys2Proof

/-! ## The window sequence (R59) -/

section Sequence

variable {n p : Nat} {z : Int}

/-- A sequence has a frame at exactly the places below the number of frames remaining. -/
theorem sequenceFrame_isSome_iff (step : z ≠ 0) (inside : p < n) (j : Nat) :
    (sequenceFrame n p z j).isSome = true ↔ j < framesRemaining n p z := by
  have some_iff : (sequenceFrame n p z j).isSome = true ↔ 0 ≤ (p : Int) + z * j ∧ (p : Int) + z * j < n := by
    unfold sequenceFrame
    dsimp only
    split <;> simp_all
  rw [some_iff]
  unfold framesRemaining
  rw [if_pos inside]
  obtain ⟨k, rfl | rfl⟩ := z.eq_nat_or_neg
  · have pos : 0 < k := by omega
    rw [if_pos (by omega), Int.toNat_natCast, Nat.lt_succ_iff, Nat.le_div_iff_mul_le pos, mul_comm j k]
    have : (k : Int) * j = ((k * j : Nat) : Int) := by push_cast; rfl
    rw [this]
    omega
  · have pos : 0 < k := by omega
    rw [if_neg (by omega), if_pos (by omega), neg_neg, Int.toNat_natCast, Nat.lt_succ_iff, Nat.le_div_iff_mul_le pos,
      mul_comm j k]
    have : -(k : Int) * j = -((k * j : Nat) : Int) := by push_cast; ring
    rw [this]
    omega

theorem sequenceFrame_eq_some_iff {j f : Nat} :
    sequenceFrame n p z j = some f ↔ (p : Int) + z * j = f ∧ f < n := by
  unfold sequenceFrame
  dsimp only
  split
  · simp only [Option.some.injEq]
    omega
  · simp only [reduceCtorEq, false_iff]
    omega

/-- The frame after a frame of the sequence is the next one of the sequence. -/
theorem sequenceFrame_next {j f : Nat} (h : sequenceFrame n p z j = some f) :
    sequenceFrame n f z 1 = sequenceFrame n p z (j + 1) := by
  obtain ⟨e, -⟩ := sequenceFrame_eq_some_iff.1 h
  have : (f : Int) + z * (1 : Nat) = p + z * (j + 1 : Nat) := by rw [← e]; push_cast; ring
  unfold sequenceFrame
  rw [this]

/-- A sequence that steps holds no frame twice. -/
theorem sequenceFrames_nodup (step : z ≠ 0) (m : Nat) : ((List.range m).filterMap (sequenceFrame n p z)).Nodup := by
  refine List.Nodup.filterMap (fun i j f hi hj => ?_) List.nodup_range
  obtain ⟨ei, -⟩ := sequenceFrame_eq_some_iff.1 hi
  obtain ⟨ej, -⟩ := sequenceFrame_eq_some_iff.1 hj
  have : z * i = z * j := by omega
  exact Int.natCast_inj.1 (mul_left_cancel₀ step this)

/-- Places past the end of a sequence add no frames. -/
theorem sequenceFrames_min (step : z ≠ 0) (inside : p < n) (m : Nat) :
    (List.range (min (framesRemaining n p z) m)).filterMap (sequenceFrame n p z)
      = (List.range m).filterMap (sequenceFrame n p z) := by
  rcases Nat.le_total m (framesRemaining n p z) with short | long
  · rw [Nat.min_eq_right short]
  · obtain ⟨d, rfl⟩ := Nat.exists_eq_add_of_le long
    rw [Nat.min_eq_left long, List.range_add, List.filterMap_append, List.filterMap_map]
    have past : (List.range d).filterMap (sequenceFrame n p z ∘ fun i => framesRemaining n p z + i) = [] := by
      rw [List.filterMap_eq_nil_iff]
      intro i _
      have missing := (sequenceFrame_isSome_iff step inside (framesRemaining n p z + i)).not.2 (by omega)
      simpa using missing
    rw [past, List.append_nil]

/-- Where a sequence has ended, it stays ended. -/
theorem sequenceFrame_ended (step : z ≠ 0) (inside : p < n) {j : Nat} (h : sequenceFrame n p z j = none) (m : Nat) :
    (List.range' j m).filterMap (sequenceFrame n p z) = [] := by
  have past : framesRemaining n p z ≤ j := by
    have := (sequenceFrame_isSome_iff step inside j).not.1 (by simp [h])
    omega
  rw [List.filterMap_eq_nil_iff]
  intro i hi
  obtain ⟨low, -⟩ := List.mem_range'_1.1 hi
  have missing := (sequenceFrame_isSome_iff step inside i).not.2 (by omega)
  simpa using missing

end Sequence

/-! ## The page list of a frame (R5, R7) -/

/-- The volume pages of a list of extents, in order. -/
abbrev volumePages (l : List Extent) : List Nat :=
  l.flatMap (fun e => (List.range e.pages).map (fun p => e.start / 256 + p))

theorem volumePage_eq (l : List Extent) : ∀ p : Nat, volumePage l p = (volumePages l)[p]? := by
  induction l with
  | nil => intro p; rfl
  | cons e l ih =>
    intro p
    have length : ((List.range e.pages).map (fun p => e.start / 256 + p)).length = e.pages := by simp
    unfold volumePage volumePages
    rw [List.flatMap_cons]
    split
    · rename_i within
      rw [List.getElem?_append_left (by omega)]
      simp [within]
    · rename_i beyond
      rw [List.getElem?_append_right (by omega), length]
      exact ih _

theorem RenditionRecord.pageList_outside {x : RenditionRecord} {f : Nat} (h : x.frameCount ≤ f) : x.pageList f = [] := by
  unfold RenditionRecord.pageList
  rw [if_neg (Nat.not_lt.2 h)]

/-- Each entry of a page list, where the extents hold the frame's last page. -/
theorem RenditionRecord.pageList_entries {x : RenditionRecord} {f : Nat} (inside : f < x.frameCount)
    (held : ((f + 1) * x.frameBlocks - 1) / 256 < (volumePages x.extents).length) :
    let lo := f * x.frameBlocks
    let hi := (f + 1) * x.frameBlocks - 1
    let n := hi / 256 + 1 - lo / 256
    (x.pageList f).length = n ∧ ∀ (i p : Nat), i < n → (volumePages x.extents)[lo / 256 + i]? = some p →
      (x.pageList f)[i]? = some { key := { volume := x.volume, page := p }, first := if i = 0 then lo % 256 else 0,
                                  count := (if i + 1 = n then hi % 256 else 255) + 1 - (if i = 0 then lo % 256 else 0),
                                  span := none } := by
  intro lo hi n
  let entry (i p : Nat) : PageEntry :=
    { key := { volume := x.volume, page := p }, first := if i = 0 then lo % 256 else 0,
      count := (if i + 1 = n then hi % 256 else 255) + 1 - (if i = 0 then lo % 256 else 0), span := none }
  have entries : ∀ i ∈ List.range n, x.pageEntry lo hi (lo / 256 + i)
      = some (entry i ((volumePages x.extents).getD (lo / 256 + i) 0)) := by
    intro i hi'
    have small : i < n := List.mem_range.1 hi'
    have first : lo / 256 + i = lo / 256 ↔ i = 0 := by omega
    have last : lo / 256 + i = hi / 256 ↔ i + 1 = n := by omega
    have page : volumePage x.extents (lo / 256 + i)
        = some ((volumePages x.extents).getD (lo / 256 + i) 0) := by
      have within : lo / 256 + i < (volumePages x.extents).length := by omega
      rw [volumePage_eq, List.getD_eq_getElem?_getD, List.getElem?_eq_getElem within, Option.getD_some]
    unfold RenditionRecord.pageEntry
    rw [page]
    simp only [first, last]
    rfl
  have list : x.pageList f
      = (List.range n).map (fun i => entry i ((volumePages x.extents).getD (lo / 256 + i) 0)) := by
    unfold RenditionRecord.pageList
    rw [if_pos inside]
    dsimp only
    rw [List.filterMap_congr entries, List.filterMap_eq_map']
  refine ⟨by rw [list]; simp, fun i p small page => ?_⟩
  rw [list, List.getElem?_map, List.getElem?_range small, Option.map_some, List.getD_eq_getElem?_getD, page,
    Option.getD_some]

variable {s : State}

/-! ## Attach (R79) and allocation (R80) -/

theorem SpanBuffer.find_eq_some {b : SpanBuffer} {k : Key} {i : Nat} (h : b.find k = some i) :
    ∃ x : Span, (i, x) ∈ b.spans ∧ x.key = k ∧ x.state ≠ .stale := by
  unfold SpanBuffer.find at h
  split at h
  · rename_i e found
    cases h
    have ok := List.find?_some found
    simp only [Bool.and_eq_true, beq_iff_eq] at ok
    obtain ⟨key, stands⟩ := ok
    refine ⟨e.2, List.mem_of_find?_eq_some found, key, fun stale => ?_⟩
    rw [Span.found, stale] at stands
    cases stands
  · cases h

theorem SpanBuffer.find_eq_none {b : SpanBuffer} {k : Key} (h : b.find k = none) :
    ∀ e ∈ b.spans, e.2.key = k → e.2.state = .stale := by
  intro e he key
  unfold SpanBuffer.find at h
  split at h
  · cases h
  · rename_i missing
    have := List.find?_eq_none.1 missing e he
    simp only [key, beq_self_eq_true, Bool.true_and] at this
    unfold Span.found at this
    cases state : e.2.state with
    | stale => rfl
    | valid => simp [state] at this
    | filling f => simp [state] at this

theorem State.attach_valid {r : Referrer} {k : Key} {i : Nat} {x : Span} (found : s.buffer.find k = some i)
    (span : s.buffer.span i = some x) (valid : x.state = .valid) : s.attach r k
      = ({ s with buffer := { s.buffer.put i { x with refs := x.refs ++ [r] } with
            resting := s.buffer.resting.filter (fun j => j != i) } },
          { span := some i, valid := true, mark := x.checkFailed }) := by
  unfold State.attach
  simp only [found, span, Span.redeadline, Span.fetch, valid, Option.isNone_none]
  rfl

theorem State.attach_filling {r : Referrer} {k : Key} {i : Nat} {x : Span} {f : Fetch}
    (found : s.buffer.find k = some i) (span : s.buffer.span i = some x) (filling : x.state = .filling f)
    (unmarked : x.checkFailed = false) : s.attach r k
      = ({ s with buffer := { s.buffer.put i { x with
              refs := x.refs ++ [r], state := .filling { f with deadline := earliest (x.refs ++ [r]) } } with
            resting := s.buffer.resting.filter (fun j => j != i) } },
          { span := some i, valid := false, mark := false }) := by
  have used : (x.refs ++ [r]).isEmpty = false := by simp
  unfold State.attach
  simp only [found, span, Span.redeadline, Span.fetch, filling, used, unmarked, Option.isNone_some]
  rfl

theorem SpanBuffer.awaits_iff (b : SpanBuffer) (k : Key) : b.awaits k = true ↔ ∃ w ∈ b.waiting, w.key = k := by
  simp [SpanBuffer.awaits]

theorem State.attach_awaited {k : Key} (absent : s.buffer.find k = none) (awaited : ∃ w ∈ s.buffer.waiting, w.key = k)
    (r : Referrer) : s.attach r k
      = ({ s with buffer := { s.buffer with
            waiting := s.buffer.waiting.map (fun w => if w.key = k then { w with slots := w.slots ++ [r] } else w) } },
          { span := none, valid := false, mark := false }) := by
  unfold State.attach
  simp only [absent, (s.buffer.awaits_iff k).2 awaited, if_true]

theorem SpanBuffer.awaits_eq_false {b : SpanBuffer} {k : Key} (h : ∀ w ∈ b.waiting, w.key ≠ k) : b.awaits k = false := by
  rw [← Bool.not_eq_true, b.awaits_iff]
  rintro ⟨w, hw, e⟩
  exact h w hw e

theorem State.attach_waits {k : Key} (absent : s.buffer.find k = none) (fresh : ∀ w ∈ s.buffer.waiting, w.key ≠ k)
    (full : s.buffer.take = none) (r : Referrer) : s.attach r k
      = ({ s with buffer := { s.buffer with waiting := s.buffer.waiting ++ [{ key := k, slots := [r] }] } },
          { span := none, valid := false, mark := false }) := by
  unfold State.attach State.allocate
  simp only [absent, SpanBuffer.awaits_eq_false fresh, full]
  rfl

theorem State.attach_takes {k : Key} (absent : s.buffer.find k = none) (fresh : ∀ w ∈ s.buffer.waiting, w.key ≠ k)
    {i : Nat} {c : SpanBuffer} (taken : s.buffer.take = some (i, c)) (r : Referrer) : s.attach r k
      = ({ s with fetch := { s.fetch with enqueue := s.fetch.enqueue + 1 }
                  buffer := c.put i { key := k, state := .filling (Fetch.create r.deadline s.fetch.enqueue),
                                      refs := [r], pins := 0, refill := false, checkFailed := false } },
          { span := some i, valid := false, mark := false }) := by
  unfold State.attach State.allocate
  simp only [absent, SpanBuffer.awaits_eq_false fresh, taken]
  rfl

theorem SpanBuffer.freeList_of_fresh {b : SpanBuffer} (h : b.fresh < Config.bufferPages) :
    b.freeList = b.fresh :: SpanBuffer.freeList { b with fresh := b.fresh + 1 } := by
  unfold SpanBuffer.freeList
  obtain ⟨d, e⟩ := Nat.exists_eq_add_of_lt h
  have whole : Config.bufferPages - b.fresh = d + 1 := by omega
  have rest : Config.bufferPages - (b.fresh + 1) = d := by omega
  simp only [whole, rest, List.range'_succ, List.cons_append]

theorem SpanBuffer.freeList_of_used {b : SpanBuffer} (h : ¬ b.fresh < Config.bufferPages) : b.freeList = b.freed := by
  unfold SpanBuffer.freeList
  rw [show Config.bufferPages - b.fresh = 0 by omega]
  rfl

/-- A span is taken from the front of the free list, or else from the front of the resting list. -/
theorem SpanBuffer.take_cases (b : SpanBuffer) (i : Nat) (l : List Nat) :
    (b.freeList = i :: l → ∃ c : SpanBuffer, b.take = some (i, c) ∧ c.freeList = l ∧ c.resting = b.resting
      ∧ c.spans = b.spans ∧ c.waiting = b.waiting)
    ∧ (b.freeList = [] → b.resting = i :: l →
      b.take = some (i, { b with resting := l, spans := Keyed.drop b.spans i }))
    ∧ (b.freeList = [] → b.resting = [] → b.take = none) := by
  by_cases h : b.fresh < Config.bufferPages
  · rw [SpanBuffer.freeList_of_fresh h]
    refine ⟨fun e => ?_, fun e => (List.cons_ne_nil _ _ e).elim, fun e => (List.cons_ne_nil _ _ e).elim⟩
    obtain ⟨rfl, rest⟩ := List.cons.inj e
    exact ⟨{ b with fresh := b.fresh + 1 }, by rw [SpanBuffer.take, if_pos h], rest, rfl, rfl, rfl⟩
  · rw [SpanBuffer.freeList_of_used h]
    refine ⟨fun e => ?_, fun e rests => ?_, fun e rests => ?_⟩
    · exact ⟨{ b with freed := l }, by rw [SpanBuffer.take, if_neg h, e],
        SpanBuffer.freeList_of_used (b := { b with freed := l }) h, rfl, rfl, rfl⟩
    · rw [SpanBuffer.take, if_neg h, e, rests]
    · rw [SpanBuffer.take, if_neg h, e, rests]

/-! ## Detach (R82) -/

theorem State.detachSpan_other {h : Handle} {serial i : Nat} {x : Span} (span : s.buffer.span i = some x)
    (stranger : ∀ r ∈ x.refs, ¬ (r.handle = h ∧ r.slot = serial)) : s.detachSpan h serial i = s := by
  have absent : x.refs.any (fun r => r.handle == h && r.slot == serial) = false := by
    rw [List.any_eq_false]
    intro r hr
    simpa using stranger r hr
  unfold State.detachSpan
  simp only [span, absent]
  rfl

/-- The span that a referrer leaves is settled by what is left of its use. -/
theorem State.detachSpan_referrer {h : Handle} {serial i : Nat} {x : Span} (span : s.buffer.span i = some x)
    (user : ∃ r ∈ x.refs, r.handle = h ∧ r.slot = serial) : s.detachSpan h serial i
      = State.settleUse (s.putSpan i { x with
          refs := x.refs.filter (fun r => !(r.handle == h && r.slot == serial)) }) i := by
  have present : x.refs.any (fun r => r.handle == h && r.slot == serial) = true := by
    obtain ⟨r, hr, handle, slot⟩ := user
    exact List.any_eq_true.2 ⟨r, hr, by simp [handle, slot]⟩
  unfold State.detachSpan
  simp only [span, present, if_true]

section SettleUse

variable {i : Nat} {y : Span}

theorem State.settleUse_valid (h : s.buffer.span i = some y) (valid : y.state = .valid) :
    s.settleUse i = if y.refs = [] ∧ y.pins = 0 then s.restSpan i else s := by
  unfold State.settleUse
  simp only [h, valid, List.isEmpty_iff]

theorem State.settleUse_stale (h : s.buffer.span i = some y) (stale : y.state = .stale) :
    s.settleUse i = if y.refs = [] ∧ y.pins = 0 then s.freeSpan i else s := by
  unfold State.settleUse
  simp only [h, stale, List.isEmpty_iff]

theorem State.settleUse_wanted {f : Fetch} (h : s.buffer.span i = some y) (filling : y.state = .filling f)
    (used : y.refs ≠ []) :
    s.settleUse i = s.putSpan i { y with state := .filling { f with deadline := earliest y.refs } } := by
  unfold State.settleUse Span.redeadline
  simp only [h, filling, List.isEmpty_iff, if_neg used]

theorem State.settleUse_orphan {f : Fetch} (h : s.buffer.span i = some y) (filling : y.state = .filling f)
    (unused : y.refs = []) : s.settleUse i = if f.state = .issued then s else s.freeSpan i := by
  unfold State.settleUse
  simp only [h, filling, unused, List.isEmpty_nil, if_true]
  cases f.state <;> rfl

end SettleUse

/-- A span that becomes FREE leaves the table whatever record it had last. -/
theorem State.freeSpan_putSpan (s : State) (i : Nat) (x : Span) : (s.putSpan i x).freeSpan i
    = State.serve { s with buffer := { s.buffer with
        spans := Keyed.drop s.buffer.spans i, freed := s.buffer.freed ++ [i] } } := by
  unfold State.freeSpan
  simp only [State.putSpan, SpanBuffer.put, Keyed.drop_put]

theorem State.detachKeys_eq_foldl (h : Handle) (serial : Nat) (l : List Key) :
    ∀ s : State, s.detachKeys h serial l = l.foldl (fun q k => q.detachKey h serial k) s := by
  induction l with
  | nil => intro s; rfl
  | cons k t ih => intro s; exact ih (s.detachKey h serial k)

/-- The span that a slot names for a key, read entry by entry. -/
theorem State.namedSpan_eq_bind (s : State) (h : Handle) (serial : Nat) (k : Key) : s.namedSpan h serial k
    = ((s.window h).slot serial).bind (fun y => (y.pages.find? (fun e => e.key == k)).bind PageEntry.span) := by
  unfold State.namedSpan
  cases (s.window h).slot serial with
  | none => rfl
  | some y =>
    dsimp only [Option.bind]
    cases y.pages.find? (fun e => e.key == k) <;> rfl

theorem State.detachKey_named {h : Handle} {serial i : Nat} {k : Key} (e : s.namedSpan h serial k = some i) :
    s.detachKey h serial k = s.detachSpan h serial i := by
  unfold State.detachKey
  rw [e]

theorem State.detachKey_unnamed {h : Handle} {serial : Nat} {k : Key} (e : s.namedSpan h serial k = none) :
    s.detachKey h serial k = s.leaveKey h serial k := by
  unfold State.detachKey
  rw [e]

theorem State.detachSlot_known {h : Handle} {serial : Nat} {z : Slot} (known : (s.window h).slot serial = some z) :
    s.detachSlot h serial
      = ((z.pages.map PageEntry.key).foldl (fun q k => q.detachKey h serial k) s).removeSlot h serial := by
  unfold State.detachSlot
  simp only [known, State.detachKeys_eq_foldl]

end Sys2Proof.Machine
end

section
/-! PROOFS. How a window follows its sequence: slots are created at their places, top-up and build run along the
sequence, and deadlines follow the places. -/

namespace Sys2Proof.Machine

open Sys2Proof

variable {s t u : State} {h : Handle}

/-! ## Creating a slot (R61) -/

/-- Attaching a page changes no window and names no slot. -/
theorem State.attach_windows (s : State) (r : Referrer) (k : Key) :
    (s.attach r k).1.windows = s.windows ∧ (s.attach r k).1.nextSlot = s.nextSlot := by
  unfold State.attach
  split
  · split
    · exact ⟨rfl, rfl⟩
    · exact ⟨rfl, rfl⟩
  · dsimp only
    split
    · exact ⟨rfl, rfl⟩
    · unfold State.allocate
      split
      · rename_i q
        split at q
        · cases q
        · cases q
          exact ⟨rfl, rfl⟩
      · exact ⟨rfl, rfl⟩

theorem State.attachAll_windows (r : Referrer) (l : List PageEntry) : ∀ s : State,
    (s.attachAll r l).state.windows = s.windows ∧ (s.attachAll r l).state.nextSlot = s.nextSlot := by
  induction l with
  | nil => intro s; exact ⟨rfl, rfl⟩
  | cons e l ih =>
    intro s
    obtain ⟨windows, next⟩ := ih (s.attach r e.key).1
    obtain ⟨windows', next'⟩ := s.attach_windows r e.key
    exact ⟨windows.trans windows', next.trans next'⟩

/-- The attach of a new slot's pages. -/
def State.creation (s : State) (h : Handle) (f j : Nat) : Creation :=
  State.attachAll { s with nextSlot := s.nextSlot + 1 }
    { handle := h, slot := s.nextSlot, deadline := s.slotDeadline h j, sending := false }
    (match s.boundRecord (s.stream h) with
      | none => []
      | some x => x.pageList f)

/-- The slot that is created for a frame at a place of a window. -/
def State.newSlot (s : State) (h : Handle) (f j : Nat) : Slot :=
  { serial := s.nextSlot, frame := f, rendition := (s.stream h).rendition, pages := (s.creation h f j).pages,
    deadline := s.slotDeadline h j, state := if (s.creation h f j).valid then .ready else .pending,
    checkFailed := (s.creation h f j).mark, stale := false }

/-- A window with a slot put in at a place. -/
def Window.insert (w : Window) (j : Nat) (x : Slot) : Window :=
  { w with slots := w.slots.take j ++ x :: w.slots.drop j }

theorem State.createSlot_eq (s : State) (h : Handle) (f j : Nat) : s.createSlot h f j
    = (s.creation h f j).state.setWindow h ((s.window h).insert j (s.newSlot h f j)) := by
  have window : (s.creation h f j).state.window h = s.window h :=
    congrArg (fun v : Vector Window 128 => v[h]) (State.attachAll_windows _ _ _).1
  rw [← window]
  rfl

theorem State.window_createSlot (s : State) (h : Handle) (f j : Nat) :
    (s.createSlot h f j).window h = (s.window h).insert j (s.newSlot h f j) := by
  rw [State.createSlot_eq, State.window_setWindow]

theorem State.nextSlot_createSlot (s : State) (h : Handle) (f j : Nat) :
    (s.createSlot h f j).nextSlot = s.nextSlot + 1 := by
  rw [State.createSlot_eq]
  exact (State.attachAll_windows _ _ _).2

/-! ## What operations on windows read of a stream -/

namespace Quiet

theorem slotDeadline (q : Quiet s t) (h : Handle) (j : Nat) : t.slotDeadline h j = s.slotDeadline h j := by
  unfold State.slotDeadline State.boundRate State.boundClip
  rw [q.stream, q.cadence, q.tables, q.now]

theorem frameCount (q : Quiet s t) (r : Stream) : t.frameCount r = s.frameCount r := by
  unfold State.frameCount State.boundRecord State.boundClip
  rw [q.tables]

end Quiet

/-! ## Top-up and build (R60, R62) -/

theorem Window.count_insert (w : Window) (j : Nat) (x : Slot) : (w.insert j x).count = w.count + 1 := by
  simp only [Window.insert, Window.count, List.length_append, List.length_cons, List.length_take, List.length_drop]
  omega

/-- One pass of a top-up: the state with a slot more and the cursor moved on. -/
def State.topUpStep (s : State) (h : Handle) (f : Nat) : State :=
  (s.createSlot h f (s.window h).slots.length).setCursor h
    (sequenceFrame (s.frameCount (s.stream h)) f (s.stream h).stride 1)

theorem State.topUpStep_quiet (s : State) (h : Handle) (f : Nat) : Quiet s (s.topUpStep h f) :=
  ((Quiet.refl s).createSlot h f _).setCursor h _

theorem State.window_topUpStep (s : State) (h : Handle) (f : Nat) : (s.topUpStep h f).window h
    = { slots := (s.window h).slots ++ [s.newSlot h f (s.window h).slots.length], sending := (s.window h).sending,
        cursor := sequenceFrame (s.frameCount (s.stream h)) f (s.stream h).stride 1 } := by
  unfold State.topUpStep State.setCursor
  rw [State.window_setWindow, State.window_createSlot]
  simp only [Window.insert, List.take_length, List.drop_length]

theorem State.topUpPasses_succ {f : Nat} (cursor : (s.window h).cursor = some f)
    (room : (s.window h).count < (s.stream h).effDepth) (n : Nat) :
    s.topUpPasses h (n + 1) = (s.topUpStep h f).topUpPasses h n := by
  have q := (Quiet.refl s).createSlot h f (s.window h).slots.length
  rw [State.topUpPasses]
  simp only [cursor, if_pos room, q.stream, q.frameCount]
  rfl

/-- Passes change nothing where the cursor is exhausted or no place is left. -/
theorem State.topUpPasses_done (done : (s.window h).cursor = none ∨ (s.stream h).effDepth ≤ (s.window h).count)
    (n : Nat) : s.topUpPasses h n = s := by
  cases n with
  | zero => rfl
  | succ n =>
    unfold State.topUpPasses
    rcases done with none | full
    · simp only [none]
    · split
      · rfl
      · rw [if_neg (Nat.not_lt.2 full)]

/-- As many passes as there are places leave no place, or no frame. -/
theorem State.topUpPasses_ends (n : Nat) : ∀ s : State, (s.stream h).effDepth ≤ (s.window h).count + n →
    ((s.topUpPasses h n).window h).cursor = none
      ∨ (s.stream h).effDepth ≤ ((s.topUpPasses h n).window h).count := by
  induction n with
  | zero => intro s enough; exact Or.inr enough
  | succ n ih =>
    intro s enough
    by_cases full : (s.stream h).effDepth ≤ (s.window h).count
    · rw [State.topUpPasses_done (Or.inr full)]
      exact Or.inr full
    · cases cursor : (s.window h).cursor with
      | none =>
        rw [State.topUpPasses_done (Or.inl cursor)]
        exact Or.inl cursor
      | some f =>
        rw [State.topUpPasses_succ cursor (Nat.lt_of_not_le full), ← (s.topUpStep_quiet h f).stream h]
        refine ih _ ?_
        have count : ((s.topUpStep h f).window h).count = (s.window h).count + 1 := by
          rw [State.window_topUpStep]
          simp only [Window.count, List.length_append, List.length_cons, List.length_nil]
          omega
        rw [count, (s.topUpStep_quiet h f).stream h]
        omega

theorem State.topUp_ends (windowed : (s.stream h).windowed = true) :
    ((s.topUp h).window h).cursor = none ∨ (s.stream h).effDepth ≤ ((s.topUp h).window h).count := by
  unfold State.topUp
  rw [if_pos windowed]
  exact State.topUpPasses_ends _ s (Nat.le_add_left ..)

theorem State.topUp_done (done : (s.window h).cursor = none ∨ (s.stream h).effDepth ≤ (s.window h).count) :
    s.topUp h = s := by
  unfold State.topUp
  split
  · exact State.topUpPasses_done done _
  · rfl

/-- Passes from place `j` of a sequence append its frames from there on, while there are places. -/
theorem State.frames_topUpPasses {p : Nat} (step : (s.stream h).stride ≠ 0)
    (inside : p < s.frameCount (s.stream h)) (n : Nat) : ∀ (u : State) (j : Nat), Quiet s u →
    (u.window h).cursor = sequenceFrame (s.frameCount (s.stream h)) p (s.stream h).stride j →
    ((u.topUpPasses h n).window h).slots.map Slot.frame = (u.window h).slots.map Slot.frame
      ++ (List.range' j (min n ((s.stream h).effDepth - (u.window h).count))).filterMap
        (sequenceFrame (s.frameCount (s.stream h)) p (s.stream h).stride) := by
  induction n with
  | zero =>
    intro u j _ _
    simp [State.topUpPasses]
  | succ n ih =>
    intro u j q cursor
    have stream := q.stream h
    by_cases full : (s.stream h).effDepth ≤ (u.window h).count
    · rw [State.topUpPasses_done (Or.inr (by rw [stream]; exact full)), Nat.sub_eq_zero_of_le full]
      simp
    · cases frame : sequenceFrame (s.frameCount (s.stream h)) p (s.stream h).stride j with
      | none =>
        rw [frame] at cursor
        rw [State.topUpPasses_done (Or.inl cursor), sequenceFrame_ended step inside frame, List.append_nil]
      | some f =>
        rw [frame] at cursor
        rw [State.topUpPasses_succ cursor (by rw [stream]; omega)]
        have next : ((u.topUpStep h f).window h).cursor
            = sequenceFrame (s.frameCount (s.stream h)) p (s.stream h).stride (j + 1) := by
          rw [State.window_topUpStep, stream, q.frameCount]
          exact sequenceFrame_next frame
        have places : min (n + 1) ((s.stream h).effDepth - (u.window h).count)
            = min n ((s.stream h).effDepth - ((u.topUpStep h f).window h).count) + 1 := by
          rw [State.window_topUpStep]
          simp only [Window.count, List.length_append, List.length_cons, List.length_nil] at full ⊢
          omega
        rw [ih _ (j + 1) (q.change (u.topUpStep_quiet h f)) next, places, List.range'_succ,
          List.filterMap_cons_some frame, State.window_topUpStep]
        simp only [List.map_append, List.map_cons, List.map_nil, List.append_assoc, List.singleton_append]
        rfl

/-- A build of an empty window holds the frames of the sequence from the position on. -/
theorem State.frames_build (step : (s.stream h).stride ≠ 0)
    (inside : (s.stream h).position < s.frameCount (s.stream h)) (windowed : (s.stream h).windowed = true)
    (empty : (s.window h).slots = []) : ((s.build h).window h).slots.map Slot.frame
      = (List.range ((s.stream h).effDepth - (s.window h).sending.length)).filterMap
        (sequenceFrame (s.frameCount (s.stream h)) (s.stream h).position (s.stream h).stride) := by
  have q : Quiet s (s.setCursor h (some (s.stream h).position)) := (Quiet.refl s).setCursor h _
  have window : (s.setCursor h (some (s.stream h).position)).window h
      = { s.window h with cursor := some (s.stream h).position } := State.window_setWindow ..
  have start : sequenceFrame (s.frameCount (s.stream h)) (s.stream h).position (s.stream h).stride 0
      = some (s.stream h).position := sequenceFrame_eq_some_iff.2 ⟨by simp, inside⟩
  unfold State.build State.topUp
  rw [q.stream, if_pos windowed, State.frames_topUpPasses step inside _ _ 0 q (by rw [window, start]), window]
  simp only [empty, List.map_nil, List.nil_append, Window.count, List.length_nil, Nat.zero_add, List.range_eq_range']
  rw [Nat.min_eq_right (Nat.sub_le ..)]

/-! ## Deadlines (R63, R64, R65) -/

/-- A slot's new deadline stands in the window; nothing else of the window changes. -/
theorem State.window_setDeadline (s : State) (h : Handle) (serial d : Nat) :
    (s.setDeadline h serial d).window h = (s.window h).mapSlot serial (fun z => { z with deadline := d }) := by
  unfold State.setDeadline
  split
  · rename_i missing
    unfold Window.slot at missing
    rw [List.find?_eq_none] at missing
    have same (l : List Slot) (within : ∀ z ∈ l, z ∈ (s.window h).slots ++ (s.window h).sending) :
        l.map (fun z => if z.serial = serial then { z with deadline := d } else z) = l := by
      refine (List.map_congr_left fun z hz => if_neg ?_).trans (List.map_id l)
      simpa using missing z (within z hz)
    unfold Window.mapSlot
    rw [same _ fun z hz => List.mem_append_left _ hz, same _ fun z hz => List.mem_append_right _ hz]
  · rename_i x _
    rw [State.mapEntries_withBuffer serial (fun r => { r with deadline := d }) x.pages s
      (s.mapSlot h serial fun z => { z with deadline := d }) rfl]
    exact State.window_setWindow ..

theorem State.nextSlot_setDeadline (s : State) (h : Handle) (serial d : Nat) :
    (s.setDeadline h serial d).nextSlot = s.nextSlot := by
  unfold State.setDeadline
  split
  · rfl
  · rename_i x _
    rw [State.mapEntries_withBuffer serial (fun r => { r with deadline := d }) x.pages s
      (s.mapSlot h serial fun z => { z with deadline := d }) rfl]
    rfl

/-- Slots take the deadlines of their places, one after another; an entry of the list is a serial and a place. -/
def State.dated (s : State) (h : Handle) (l : List (Nat × Nat)) : State :=
  l.foldl (fun q e => q.setDeadline h e.1 (q.slotDeadline h e.2)) s

/-- What the dating of a list of serials and places makes of one slot. -/
def Slot.dated (deadline : Nat → Nat) (l : List (Nat × Nat)) (z : Slot) : Slot :=
  l.foldl (fun z e => if z.serial = e.1 then { z with deadline := deadline e.2 } else z) z

theorem Slot.serial_redated (z : Slot) (serial d : Nat) :
    (if z.serial = serial then { z with deadline := d } else z).serial = z.serial := by split <;> rfl

theorem Slot.identity_dated (deadline : Nat → Nat) (l : List (Nat × Nat)) : ∀ z : Slot,
    (z.dated deadline l).identity = z.identity := by
  induction l with
  | nil => intro z; rfl
  | cons e l ih =>
    intro z
    refine (ih _).trans ?_
    dsimp only
    split <;> rfl

/-- A slot whose serial the list does not give keeps its deadline. -/
theorem Slot.dated_of_unlisted {deadline : Nat → Nat} {l : List (Nat × Nat)} {z : Slot}
    (unlisted : z.serial ∉ l.map Prod.fst) : z.dated deadline l = z := by
  induction l with
  | nil => rfl
  | cons e l ih =>
    rw [List.map_cons, List.mem_cons, not_or] at unlisted
    obtain ⟨other, unlisted⟩ := unlisted
    change Slot.dated deadline l (if z.serial = e.1 then _ else z) = z
    rw [if_neg other]
    exact ih unlisted

/-- A slot whose serial the list gives once takes the deadline of its place. -/
theorem Slot.dated_of_listed {deadline : Nat → Nat} {l : List (Nat × Nat)} {z : Slot} {j : Nat}
    (once : (l.map Prod.fst).Nodup) (listed : (z.serial, j) ∈ l) :
    z.dated deadline l = { z with deadline := deadline j } := by
  induction l with
  | nil => cases listed
  | cons e l ih =>
    rw [List.map_cons, List.nodup_cons] at once
    obtain ⟨fresh, once⟩ := once
    change Slot.dated deadline l (if z.serial = e.1 then _ else z) = _
    rcases List.mem_cons.1 listed with rfl | later
    · rw [if_pos rfl]
      exact Slot.dated_of_unlisted fresh
    · have other : z.serial ≠ e.1 := fun same => fresh (same ▸ List.mem_map_of_mem (f := Prod.fst) later)
      rw [if_neg other]
      exact ih once later

theorem State.window_dated (h : Handle) (l : List (Nat × Nat)) : ∀ s : State, (s.dated h l).window h
    = { slots := (s.window h).slots.map (Slot.dated (s.slotDeadline h) l)
        sending := (s.window h).sending.map (Slot.dated (s.slotDeadline h) l)
        cursor := (s.window h).cursor } := by
  induction l with
  | nil =>
    intro s
    change s.window h = { slots := (s.window h).slots.map id, sending := (s.window h).sending.map id, cursor := _ }
    rw [List.map_id, List.map_id]
  | cons e l ih =>
    intro s
    have q : Quiet s (s.setDeadline h e.1 (s.slotDeadline h e.2)) := (Quiet.refl s).setDeadline h _ _
    have deadline : (s.setDeadline h e.1 (s.slotDeadline h e.2)).slotDeadline h = s.slotDeadline h :=
      funext fun j => q.slotDeadline h j
    refine (ih _).trans ?_
    rw [deadline, State.window_setDeadline]
    unfold Window.mapSlot
    rw [List.map_map, List.map_map]
    rfl

theorem State.nextSlot_dated (h : Handle) (l : List (Nat × Nat)) : ∀ s : State, (s.dated h l).nextSlot = s.nextSlot := by
  induction l with
  | nil => intro s; rfl
  | cons e l ih => intro s; exact (ih _).trans (State.nextSlot_setDeadline ..)

/-- A re-computation of deadlines dates the window's slots by their places. -/
theorem State.setDeadlines_eq_dated (h : Handle) (l : List Nat) : ∀ (s : State) (j : Nat),
    s.setDeadlines h j l = s.dated h (l.zipIdx j) := by
  induction l with
  | nil => intro s j; rfl
  | cons n l ih => intro s j; exact ih _ (j + 1)

theorem State.recomputeDeadlines_eq_dated (s : State) (h : Handle) : s.recomputeDeadlines h
    = s.dated h ((s.window h).slots.mapIdx (fun j z => (z.serial, j))) := by
  unfold State.recomputeDeadlines
  rw [State.setDeadlines_eq_dated, List.mapIdx_eq_zipIdx_map, List.zipIdx_map]
  rfl

/-- Where serials name slots uniquely, every slot of the window has the deadline of its place afterwards. -/
theorem State.window_recomputeDeadlines
    (unique : (((s.window h).slots ++ (s.window h).sending).map Slot.serial).Nodup) :
    (s.recomputeDeadlines h).window h
      = { slots := (s.window h).slots.mapIdx (fun j z => { z with deadline := s.slotDeadline h j })
          sending := (s.window h).sending, cursor := (s.window h).cursor } := by
  set l := (s.window h).slots.mapIdx (fun j z => (z.serial, j)) with hl
  have serials : l.map Prod.fst = (s.window h).slots.map Slot.serial := by
    rw [hl]
    exact List.ext_getElem (by simp) (fun j _ _ => by simp)
  rw [List.map_append, List.nodup_append] at unique
  obtain ⟨once, -, apart⟩ := unique
  have slots : (s.window h).slots.map (Slot.dated (s.slotDeadline h) l)
      = (s.window h).slots.mapIdx (fun j z => { z with deadline := s.slotDeadline h j }) := by
    refine List.ext_getElem (by simp) fun j hj _ => ?_
    rw [List.length_map] at hj
    rw [List.getElem_map, List.getElem_mapIdx]
    refine Slot.dated_of_listed (by rw [serials]; exact once) ?_
    exact List.mem_mapIdx.2 ⟨j, hj, rfl⟩
  have sending : (s.window h).sending.map (Slot.dated (s.slotDeadline h) l) = (s.window h).sending := by
    refine (List.map_congr_left fun z hz => Slot.dated_of_unlisted ?_).trans (List.map_id _)
    rw [serials]
    exact fun listed => apart _ listed _ (List.mem_map_of_mem hz) rfl
  rw [State.recomputeDeadlines_eq_dated, State.window_dated, slots, sending]

/-- An anchor that is taken starts the cadence anew (R143). -/
theorem State.takeAnchor_eq (s : State) (h : Handle) (a : Nat) : s.takeAnchor h a
    = (s.setCadence h { s.cadence h with anchor := a, index := 0, nextDue := some a, headWait := false
                      }).recomputeDeadlines h := by
  unfold State.takeAnchor Cadence.due
  simp only [rateOffset_zero, Nat.add_zero]

theorem State.slotDeadline_playing {n d : Nat} (rate : s.boundRate (s.stream h) = some (n, d))
    (playing : (s.stream h).state = .playing) (j : Nat) : s.slotDeadline h j = (s.cadence h).anchor
      + ((s.cadence h).index + j) * d * 1000000 / n - s.tables.active.policy.guardTime * 1000 := by
  unfold State.slotDeadline
  simp only [playing, if_true, rate, rateOffset, offset]

theorem State.slotDeadline_idle {n d : Nat} (rate : s.boundRate (s.stream h) = some (n, d))
    (still : (s.stream h).state ≠ .playing) (j : Nat) :
    s.slotDeadline h j = s.now + j * d * 1000000 / n - s.tables.active.policy.guardTime * 1000 := by
  unfold State.slotDeadline
  simp only [still, if_false, rate, rateOffset, offset]

/-- The spans that a slot names learn its new deadline. -/
theorem State.buffer_setDeadline {serial : Nat} {z : Slot} (known : (s.window h).slot serial = some z) (d : Nat) :
    (s.setDeadline h serial d).buffer
      = (s.mapEntries h serial (fun r => { r with deadline := d }) z.pages).buffer := by
  unfold State.setDeadline
  simp only [known]
  rw [State.mapEntries_withBuffer serial (fun r => { r with deadline := d }) z.pages s
    (s.mapSlot h serial fun z => { z with deadline := d }) rfl]

end Sys2Proof.Machine
end

section
/-! PROOFS. The re-target of a window: the slots kept are those that the new window wants, in its order and with its
deadlines, and the other places get new slots. -/

namespace Sys2Proof.Machine

open Sys2Proof

variable {s t u q : State} {h : Handle}

/-! ## Filling the places (R65) -/

theorem State.fillPlaces_present {f j : Nat} (present : f ∈ (q.window h).slots.map Slot.frame) (l : List Nat) :
    q.fillPlaces h j (f :: l) = q.fillPlaces h (j + 1) l := by
  have any : (q.window h).slots.any (fun x => x.frame == f) = true := by
    obtain ⟨x, hx, e⟩ := List.mem_map.1 present
    exact List.any_eq_true.2 ⟨x, hx, by simp [e]⟩
  rw [State.fillPlaces, if_pos any]

theorem State.fillPlaces_missing {f j : Nat} (missing : f ∉ (q.window h).slots.map Slot.frame) (l : List Nat) :
    q.fillPlaces h j (f :: l) = (q.createSlot h f j).fillPlaces h (j + 1) l := by
  have none : ¬ (q.window h).slots.any (fun x => x.frame == f) = true := by
    intro any
    obtain ⟨x, hx, e⟩ := List.any_eq_true.1 any
    exact missing (List.mem_map.2 ⟨x, hx, by simpa using e⟩)
  rw [State.fillPlaces, if_neg none]

/-- Where the slots of a window have the frames before a place, and some of those from it on, in order, the window
has them all once its places are filled. -/
theorem State.frames_fillPlaces (h : Handle) (present : Nat → Bool) (l : List Nat) : ∀ (q : State) (before : List Nat),
    (q.window h).slots.map Slot.frame = before ++ l.filter present → (before ++ l).Nodup →
    ((q.fillPlaces h before.length l).window h).slots.map Slot.frame = before ++ l := by
  induction l with
  | nil => intro q before frames _; simpa [State.fillPlaces] using frames
  | cons f l ih =>
    intro q before frames once
    obtain ⟨fresh, -⟩ := List.nodup_cons.1 (List.nodup_middle.1 once)
    have next : before ++ f :: l = (before ++ [f]) ++ l := by simp
    have length : before.length + 1 = (before ++ [f]).length := by simp
    rw [next] at once ⊢
    by_cases here : present f = true
    · rw [List.filter_cons_of_pos here] at frames
      rw [State.fillPlaces_present (by rw [frames]; simp), length]
      exact ih q (before ++ [f]) (by rw [frames]; simp) once
    · rw [List.filter_cons_of_neg here] at frames
      have missing : f ∉ (q.window h).slots.map Slot.frame := by
        rw [frames]
        refine fun listed => fresh (List.mem_append.2 ((List.mem_append.1 listed).imp_right fun later => ?_))
        exact List.mem_of_mem_filter later
      rw [State.fillPlaces_missing missing, length]
      refine ih _ (before ++ [f]) ?_ once
      rw [State.window_createSlot]
      simp only [Window.insert, List.map_append, List.map_cons, List.map_take, List.map_drop, frames,
        List.take_left, List.drop_left, List.append_assoc, List.singleton_append]
      rfl

/-- What is known of a slot that a re-target has created beside the slots it kept. -/
structure MadeFor (s : State) (h : Handle) (frames : List Nat) (kept : List Slot) (y : Slot) : Prop where
  serial    : s.nextSlot ≤ y.serial
  rendition : y.rendition = (s.stream h).rendition
  place     : ∃ j : Nat, frames[j]? = some y.frame ∧ y.deadline = s.slotDeadline h j
  missing   : ∀ x ∈ kept, x.frame ≠ y.frame

/-- Filling the places keeps every slot, and every other slot is created for its place. -/
theorem State.mem_fillPlaces {frames : List Nat} {kept : List Slot} (l : List Nat) : ∀ (q : State) (j : Nat), Quiet s q →
    s.nextSlot ≤ q.nextSlot → frames.drop j = l → (∀ x ∈ kept, x ∈ (q.window h).slots) →
    (∀ y ∈ (q.window h).slots, y ∈ kept ∨ MadeFor s h frames kept y) →
    ∀ y ∈ ((q.fillPlaces h j l).window h).slots, y ∈ kept ∨ MadeFor s h frames kept y := by
  induction l with
  | nil => intro q j _ _ _ _ known; exact known
  | cons f l ih =>
    intro q j quiet next rest keeps known
    have place : frames[j]? = some f := by
      rw [← List.head?_drop, rest]
      rfl
    have rest : frames.drop (j + 1) = l := by rw [← List.tail_drop, rest]; rfl
    by_cases present : f ∈ (q.window h).slots.map Slot.frame
    · rw [State.fillPlaces_present present]
      exact ih q (j + 1) quiet next rest keeps known
    · rw [State.fillPlaces_missing present]
      have made : MadeFor s h frames kept (q.newSlot h f j) :=
        { serial := next
          rendition := congrArg Stream.rendition (quiet.stream h)
          place := ⟨j, place, quiet.slotDeadline h j⟩
          missing := fun x hx same => present (List.mem_map.2 ⟨x, keeps x hx, same⟩) }
      have slots (y : Slot) : y ∈ ((q.createSlot h f j).window h).slots
          ↔ y ∈ (q.window h).slots ∨ y = q.newSlot h f j := by
        rw [State.window_createSlot]
        conv_rhs => rw [← List.take_append_drop j (q.window h).slots]
        simp only [Window.insert, List.mem_append, List.mem_cons]
        tauto
      refine ih _ (j + 1) (quiet.createSlot h f j) (by rw [State.nextSlot_createSlot]; omega) rest
        (fun x hx => (slots x).2 (Or.inl (keeps x hx))) fun y hy => ?_
      rcases (slots y).1 hy with old | rfl
      · exact known y old
      · exact Or.inr made

/-- Filling the places leaves the sending set. -/
theorem State.sending_fillPlaces (h : Handle) (l : List Nat) : ∀ (q : State) (j : Nat),
    ((q.fillPlaces h j l).window h).sending = (q.window h).sending := by
  induction l with
  | nil => intro q j; rfl
  | cons f l ih =>
    intro q j
    unfold State.fillPlaces
    split
    · exact ih q (j + 1)
    · refine (ih _ (j + 1)).trans ?_
      rw [State.window_createSlot]
      rfl

/-! ## The stages of a re-target -/

theorem Quiet.dated (a : Quiet s t) (h : Handle) (l : List (Nat × Nat)) : Quiet s (t.dated h l) := by
  induction l generalizing t with
  | nil => exact a
  | cons e l ih => exact ih (a.setDeadline h e.1 _)

/-- The slots that a re-target does not keep. -/
def State.unwanted (s : State) (h : Handle) : List Slot :=
  (s.window h).slots.filter (fun x => !x.kept (s.targetFrames h) (s.stream h).rendition)

/-- The window's slot for a frame. -/
def Window.holds (w : Window) (f : Nat) : Option Slot := w.slots.find? (fun x => x.frame == f)

/-- The serials of the slots that a window has for the frames given, each with the place of its frame. -/
def Window.places (w : Window) (frames : List Nat) : List (Nat × Nat) :=
  (List.range frames.length).filterMap (fun j => (frames[j]?.bind w.holds).map (fun z => (z.serial, j)))

/-- The state of a re-target once the unwanted slots are gone and the others stand in order. -/
def State.arranged (s : State) (h : Handle) : State :=
  let u := s.detachSlots h ((s.unwanted h).map Slot.serial)
  u.setWindow h ((u.window h).ordered (s.targetFrames h))

/-- The state of a re-target once the slots kept have the deadlines of their places. -/
def State.redated (s : State) (h : Handle) : State :=
  (s.arranged h).dated h (((s.arranged h).window h).places (s.targetFrames h))

theorem State.arranged_quiet (s : State) (h : Handle) : Quiet s (s.arranged h) :=
  ((Quiet.refl s).detachSlots h _).setWindow h _

theorem State.redated_quiet (s : State) (h : Handle) : Quiet s (s.redated h) := (s.arranged_quiet h).dated h _

/-- The dating of the slots kept, place by place. -/
theorem State.dated_places (v : State) (h : Handle) (frames : List Nat) {g : Nat → Option (Nat × Nat)}
    (hg : ∀ j, g j = (frames[j]?.bind (v.window h).holds).map (fun z => (j, z.serial))) :
    ((List.range frames.length).filterMap g).foldl (fun q e => q.setDeadline h e.2 (q.slotDeadline h e.1)) v
      = v.dated h ((v.window h).places frames) := by
  have swapped : (List.range frames.length).filterMap g = ((v.window h).places frames).map Prod.swap := by
    unfold Window.places
    rw [List.map_filterMap]
    refine List.filterMap_congr fun j _ => ?_
    rw [hg, Option.map_map]
    rfl
  rw [swapped, List.foldl_map]
  rfl

theorem State.retarget_eq (s : State) (h : Handle) : s.retarget h
    = ((s.redated h).fillPlaces h 0 (s.targetFrames h)).setCursor h (sequenceFrame (s.frameCount (s.stream h))
        (s.stream h).position (s.stream h).stride (s.targetFrames h).length) := by
  let finish (v : State) : State := (v.fillPlaces h 0 (s.targetFrames h)).setCursor h
    (sequenceFrame ((v.fillPlaces h 0 (s.targetFrames h)).frameCount (s.stream h)) (s.stream h).position
      (s.stream h).stride (s.targetFrames h).length)
  have filled := (s.redated_quiet h).fillPlaces h 0 (s.targetFrames h)
  rw [← filled.frameCount]
  refine congrArg finish (State.dated_places (s.arranged h) h (s.targetFrames h) fun j => ?_)
  cases (s.targetFrames h)[j]? with
  | none => rfl
  | some f =>
    change (match ((s.arranged h).window h).holds f with
      | none => none
      | some x => some (j, x.serial)) = (((s.arranged h).window h).holds f).map _
    cases ((s.arranged h).window h).holds f <;> rfl

/-! ## The frames of the new window -/

theorem Window.holds_frame {w : Window} {f : Nat} {z : Slot} (e : w.holds f = some z) : z ∈ w.slots ∧ z.frame = f :=
  ⟨List.mem_of_find?_eq_some e, by simpa using List.find?_some e⟩

theorem Window.holds_isSome_iff {w : Window} {f : Nat} : (w.holds f).isSome = true ↔ ∃ z ∈ w.slots, z.frame = f := by
  simp [Window.holds]

/-- Slots put in the order of a list of frames are those that the window has for its frames. -/
theorem Window.frames_ordered (w : Window) (frames : List Nat) :
    (w.ordered frames).slots.map Slot.frame = frames.filter (fun f => (w.holds f).isSome) := by
  change (frames.filterMap w.holds).map Slot.frame = _
  rw [List.map_filterMap, ← List.filterMap_eq_filter]
  refine List.filterMap_congr fun f _ => ?_
  cases e : w.holds f with
  | none => simp [Option.guard, e]
  | some z => simp [Option.guard, e, (Window.holds_frame e).2]

theorem Slot.frames_of_identities {l m : List Slot} (e : l.map Slot.identity = m.map Slot.identity) :
    l.map Slot.frame = m.map Slot.frame := by
  have frames := congrArg (List.map (fun i => i.2.1)) e
  rwa [List.map_map, List.map_map] at frames

theorem Slot.serials_of_identities {l m : List Slot} (e : l.map Slot.identity = m.map Slot.identity) :
    l.map Slot.serial = m.map Slot.serial := by
  have serials := congrArg (List.map (fun i => i.1)) e
  rwa [List.map_map, List.map_map] at serials

theorem State.identities_dated (s : State) (h : Handle) (l : List (Nat × Nat)) :
    ((s.dated h l).window h).slots.map Slot.identity = (s.window h).slots.map Slot.identity
      ∧ ((s.dated h l).window h).sending.map Slot.identity = (s.window h).sending.map Slot.identity := by
  rw [State.window_dated]
  dsimp only
  rw [List.map_map, List.map_map]
  exact ⟨List.map_congr_left fun z _ => Slot.identity_dated _ l z,
    List.map_congr_left fun z _ => Slot.identity_dated _ l z⟩

/-- The state of a re-target once the unwanted slots are gone. -/
abbrev State.trimmed (s : State) (h : Handle) : State := s.detachSlots h ((s.unwanted h).map Slot.serial)

theorem State.window_arranged (s : State) (h : Handle) :
    (s.arranged h).window h = ((s.trimmed h).window h).ordered (s.targetFrames h) := State.window_setWindow ..

theorem State.frames_redated (s : State) (h : Handle) : ((s.redated h).window h).slots.map Slot.frame
    = (s.targetFrames h).filter (fun f => (((s.trimmed h).window h).holds f).isSome) := by
  rw [State.redated, Slot.frames_of_identities (State.identities_dated ..).1, State.window_arranged,
    Window.frames_ordered]

theorem State.targetFrames_nodup (step : (s.stream h).stride ≠ 0) : (s.targetFrames h).Nodup :=
  sequenceFrames_nodup step _

/-- A re-target leaves the window with the frames that it aims at, whatever it held before. -/
theorem State.frames_retarget (step : (s.stream h).stride ≠ 0) :
    ((s.retarget h).window h).slots.map Slot.frame = s.targetFrames h := by
  rw [State.retarget_eq, State.setCursor, State.window_setWindow]
  exact State.frames_fillPlaces h _ (s.targetFrames h) (s.redated h) [] (State.frames_redated s h)
    (State.targetFrames_nodup step)

/-! ## The slots of the new window -/

theorem Window.mem_places {w : Window} {frames : List Nat} {n j : Nat} : (n, j) ∈ w.places frames
    ↔ ∃ z : Slot, frames[j]? = some z.frame ∧ w.holds z.frame = some z ∧ z.serial = n := by
  unfold Window.places
  simp only [List.mem_filterMap, List.mem_range, Option.map_eq_some_iff, Option.bind_eq_some_iff, Prod.mk.injEq]
  constructor
  · rintro ⟨i, -, z, ⟨f, place, holds⟩, serial, rfl⟩
    obtain ⟨-, rfl⟩ := Window.holds_frame holds
    exact ⟨z, place, holds, serial⟩
  · rintro ⟨z, place, holds, serial⟩
    exact ⟨j, (List.getElem?_eq_some_iff.1 place).1, z, ⟨z.frame, place, holds⟩, serial, rfl⟩

/-- Where serials and frames are unique, the list of places gives each serial once. -/
theorem Window.places_nodup {w : Window} {frames : List Nat} (once : frames.Nodup)
    (unique : ∀ x ∈ w.slots, ∀ y ∈ w.slots, x.serial = y.serial → x = y) : ((w.places frames).map Prod.fst).Nodup := by
  refine List.Nodup.map_on ?_ (List.Nodup.filterMap ?_ List.nodup_range)
  · rintro ⟨n, i⟩ hi ⟨m, j⟩ hj (rfl : n = m)
    obtain ⟨x, atI, holdsX, serialX⟩ := Window.mem_places.1 hi
    obtain ⟨y, atJ, holdsY, serialY⟩ := Window.mem_places.1 hj
    obtain rfl := unique x (Window.holds_frame holdsX).1 y (Window.holds_frame holdsY).1 (serialX.trans serialY.symm)
    rw [(List.getElem?_inj (List.getElem?_eq_some_iff.1 atI).1 once).1 (atI.trans atJ.symm)]
  · rintro i j ⟨n, k⟩ hi hj
    obtain ⟨x, -, hi⟩ := Option.map_eq_some_iff.1 hi
    obtain ⟨y, -, hj⟩ := Option.map_eq_some_iff.1 hj
    exact (congrArg Prod.snd hi).trans (congrArg Prod.snd hj).symm

/-- The slot that the arranged window has for a wanted frame is the one that the trimmed window has. -/
theorem State.mem_arranged {v : Slot} (hv : v ∈ ((s.arranged h).window h).slots) :
    v ∈ ((s.trimmed h).window h).slots ∧ ((s.trimmed h).window h).holds v.frame = some v
      ∧ v.frame ∈ s.targetFrames h := by
  rw [State.window_arranged] at hv
  obtain ⟨f, hf, holds⟩ := List.mem_filterMap.1 hv
  obtain ⟨within, frame⟩ := Window.holds_frame (w := (s.trimmed h).window h) holds
  exact ⟨within, by rw [frame]; exact holds, by rw [frame]; exact hf⟩


section Kept

variable (unique : (((s.window h).slots ++ (s.window h).sending).map Slot.serial).Nodup)

include unique

theorem State.serial_injective {x y : Slot} (hx : x ∈ (s.window h).slots) (hy : y ∈ (s.window h).slots)
    (same : x.serial = y.serial) : x = y := by
  rw [List.map_append] at unique
  exact List.inj_on_of_nodup_map unique.of_append_left hx hy same

/-- The slots that the trimming leaves are those kept, as they were but for the spans that they name. -/
theorem State.identities_trimmed : ((s.trimmed h).window h).slots.map Slot.identity
    = ((s.window h).slots.filter (fun x => x.kept (s.targetFrames h) (s.stream h).rendition)).map Slot.identity := by
  rw [(State.detachSlots_window ..).1, List.filter_map]
  congr 1
  refine List.filter_congr fun z hz => ?_
  have gone : z.serial ∈ (s.unwanted h).map Slot.serial
      ↔ z.kept (s.targetFrames h) (s.stream h).rendition = false := by
    constructor
    · intro listed
      obtain ⟨x, hx, same⟩ := List.mem_map.1 listed
      obtain ⟨hx, unkept⟩ := List.mem_filter.1 hx
      rw [State.serial_injective unique hx hz same] at unkept
      simpa using unkept
    · intro unkept
      exact List.mem_map.2 ⟨z, List.mem_filter.2 ⟨hz, by rw [unkept]; rfl⟩, rfl⟩
  simp only [Function.comp, Slot.identity, List.contains_eq_mem]
  by_cases kept : z.kept (s.targetFrames h) (s.stream h).rendition = true
  · simp [kept, gone]
  · simp [kept, gone]

theorem State.sending_trimmed :
    ((s.trimmed h).window h).sending.map Slot.identity = (s.window h).sending.map Slot.identity := by
  rw [(State.detachSlots_window ..).2.1, List.filter_eq_self]
  intro m hm
  obtain ⟨z, hz, rfl⟩ := List.mem_map.1 hm
  rw [List.map_append, List.nodup_append] at unique
  obtain ⟨-, -, apart⟩ := unique
  have stays : z.serial ∉ (s.unwanted h).map Slot.serial := by
    intro listed
    obtain ⟨x, hx, same⟩ := List.mem_map.1 listed
    exact apart _ (List.mem_map_of_mem (List.mem_filter.1 hx).1) _ (List.mem_map_of_mem hz) same
  simpa [Slot.identity] using stays

/-- Each slot that the trimming leaves is one that the re-target keeps. -/
theorem State.kept_of_trimmed {v : Slot} (hv : v ∈ ((s.trimmed h).window h).slots) : ∃ z ∈ (s.window h).slots,
    z.kept (s.targetFrames h) (s.stream h).rendition = true ∧ z.identity = v.identity := by
  have listed : v.identity ∈ ((s.trimmed h).window h).slots.map Slot.identity := List.mem_map_of_mem hv
  rw [State.identities_trimmed unique] at listed
  obtain ⟨z, hz, same⟩ := List.mem_map.1 listed
  obtain ⟨hz, kept⟩ := List.mem_filter.1 hz
  exact ⟨z, hz, kept, same⟩

theorem State.trimmed_of_kept {z : Slot} (hz : z ∈ (s.window h).slots)
    (kept : z.kept (s.targetFrames h) (s.stream h).rendition = true) :
    ∃ v ∈ ((s.trimmed h).window h).slots, v.identity = z.identity := by
  have listed : z.identity ∈ ((s.trimmed h).window h).slots.map Slot.identity := by
    rw [State.identities_trimmed unique]
    exact List.mem_map_of_mem (List.mem_filter.2 ⟨hz, kept⟩)
  exact List.mem_map.1 listed

/-- Serials name the slots that the trimming leaves uniquely. -/
theorem State.trimmed_serial_injective {x y : Slot} (hx : x ∈ ((s.trimmed h).window h).slots)
    (hy : y ∈ ((s.trimmed h).window h).slots) (same : x.serial = y.serial) : x = y := by
  have serials := Slot.serials_of_identities (State.identities_trimmed unique)
  rw [List.map_append] at unique
  have once : (((s.trimmed h).window h).slots.map Slot.serial).Nodup := by
    rw [serials]
    exact (List.filter_sublist.map _).nodup unique.of_append_left
  exact List.inj_on_of_nodup_map once hx hy same

/-- Each slot that a re-target keeps has the deadline of the place of its frame. -/
theorem State.mem_redated (step : (s.stream h).stride ≠ 0) {y : Slot} (hy : y ∈ ((s.redated h).window h).slots) :
    ∃ z ∈ (s.window h).slots, z.kept (s.targetFrames h) (s.stream h).rendition = true ∧ z.identity = y.identity
      ∧ ∃ j : Nat, (s.targetFrames h)[j]? = some y.frame ∧ y.deadline = s.slotDeadline h j := by
  unfold State.redated at hy
  rw [State.window_dated] at hy
  obtain ⟨v, hv, rfl⟩ := List.mem_map.1 hy
  set l := ((s.arranged h).window h).places (s.targetFrames h) with hl
  obtain ⟨within, holds, wanted⟩ := State.mem_arranged hv
  obtain ⟨j, place⟩ := List.mem_iff_getElem?.1 wanted
  have once : (l.map Prod.fst).Nodup := Window.places_nodup (State.targetFrames_nodup step) fun x hx y hy =>
    State.trimmed_serial_injective unique (State.mem_arranged hx).1 (State.mem_arranged hy).1
  have first : ((s.arranged h).window h).holds v.frame = some v := by
    obtain ⟨x, holdsX⟩ := Option.isSome_iff_exists.1 (Window.holds_isSome_iff.2 ⟨v, hv, rfl⟩)
    obtain ⟨hx, frame⟩ := Window.holds_frame holdsX
    have same := (State.mem_arranged hx).2.1
    rw [frame, holds] at same
    rw [holdsX, same]
  have dated : v.dated ((s.arranged h).slotDeadline h) l = { v with deadline := s.slotDeadline h j } := by
    rw [Slot.dated_of_listed once (Window.mem_places.2 ⟨v, place, first, rfl⟩), (s.arranged_quiet h).slotDeadline]
  obtain ⟨z, hz, kept, same⟩ := State.kept_of_trimmed unique within
  rw [dated]
  exact ⟨z, hz, kept, same, j, place, rfl⟩

theorem State.sending_retarget :
    ((s.retarget h).window h).sending.map Slot.identity = (s.window h).sending.map Slot.identity := by
  rw [State.retarget_eq, State.setCursor, State.window_setWindow]
  dsimp only
  rw [State.sending_fillPlaces, State.redated, (State.identities_dated ..).2, State.window_arranged]
  exact State.sending_trimmed unique

end Kept

theorem Slot.kept_iff (x : Slot) (frames : List Nat) (r : Rendition) :
    x.kept frames r = true ↔ x.frame ∈ frames ∧ x.rendition = r ∧ x.state ≠ .failed := by
  simp [Slot.kept, and_assoc]

/-- Every slot of a re-targeted window is a slot kept, or has been created for its place. -/
theorem State.mem_retarget {y : Slot} (hy : y ∈ ((s.retarget h).window h).slots) :
    y ∈ ((s.redated h).window h).slots ∨ MadeFor s h (s.targetFrames h) ((s.redated h).window h).slots y := by
  have next : (s.redated h).nextSlot = s.nextSlot :=
    (State.nextSlot_dated ..).trans (State.detachSlots_next ..)
  rw [State.retarget_eq, State.setCursor, State.window_setWindow] at hy
  exact State.mem_fillPlaces (s.targetFrames h) (s.redated h) 0 (s.redated_quiet h) (Nat.le_of_eq next.symm) rfl
    (fun x hx => hx) (fun x hx => Or.inl hx) y hy

/-- A slot that a re-target keeps is still in the window, with its frame. -/
theorem State.redated_of_kept (unique : (((s.window h).slots ++ (s.window h).sending).map Slot.serial).Nodup) {z : Slot}
    (hz : z ∈ (s.window h).slots) (kept : z.kept (s.targetFrames h) (s.stream h).rendition = true) :
    ∃ x ∈ ((s.redated h).window h).slots, x.frame = z.frame := by
  obtain ⟨v, hv, same⟩ := State.trimmed_of_kept unique hz kept
  have frame : v.frame = z.frame := congrArg (fun i => i.2.1) same
  have listed : z.frame ∈ ((s.redated h).window h).slots.map Slot.frame := by
    rw [State.frames_redated]
    exact List.mem_filter.2 ⟨((z.kept_iff _ _).1 kept).1, Window.holds_isSome_iff.2 ⟨v, hv, frame⟩⟩
  exact List.mem_map.1 listed

/-- What a re-target makes of each place of the window. -/
theorem State.retarget_place (step : (s.stream h).stride ≠ 0)
    (unique : (((s.window h).slots ++ (s.window h).sending).map Slot.serial).Nodup)
    (frames : ((s.window h).slots.map Slot.frame).Nodup) {j : Nat} {y : Slot}
    (at_j : ((s.retarget h).window h).slots[j]? = some y) :
    let kept (z : Slot) : Prop := z ∈ (s.window h).slots ∧ z.frame ∈ s.targetFrames h
      ∧ z.rendition = (s.stream h).rendition ∧ z.state ≠ .failed
    y.deadline = s.slotDeadline h j ∧ y.rendition = (s.stream h).rendition
      ∧ (∀ z : Slot, kept z → z.frame = y.frame →
        y.serial = z.serial ∧ y.state = z.state ∧ y.pages.map PageEntry.key = z.pages.map PageEntry.key)
      ∧ ((∀ z : Slot, kept z → z.frame ≠ y.frame) → s.nextSlot ≤ y.serial) := by
  intro kept
  have target : (s.targetFrames h)[j]? = some y.frame := by
    rw [← State.frames_retarget step, List.getElem?_map, at_j, Option.map_some]
  have same_place {i : Nat} (at_i : (s.targetFrames h)[i]? = some y.frame) : i = j :=
    (List.getElem?_inj (List.getElem?_eq_some_iff.1 at_i).1 (State.targetFrames_nodup step)).1
      (at_i.trans target.symm)
  rcases State.mem_retarget (List.mem_of_getElem? at_j) with old | made
  · obtain ⟨z, hz, keeps, same, i, place, deadline⟩ := State.mem_redated unique step old
    obtain ⟨wanted, rendition, sound⟩ := (z.kept_iff _ _).1 keeps
    simp only [Slot.identity, Prod.mk.injEq] at same
    obtain ⟨serial, frame, rendition', state, keys⟩ := same
    refine ⟨by rw [deadline, same_place place], rendition' ▸ rendition, fun x hx sameFrame => ?_, fun none => ?_⟩
    · obtain rfl : x = z := List.inj_on_of_nodup_map frames hx.1 hz (sameFrame.trans frame.symm)
      exact ⟨serial.symm, state.symm, keys.symm⟩
    · exact absurd frame (none z ⟨hz, wanted, rendition, sound⟩)
  · obtain ⟨i, place, deadline⟩ := made.place
    refine ⟨by rw [deadline, same_place place], made.rendition, fun z hz sameFrame => ?_, fun _ => made.serial⟩
    obtain ⟨x, hx, frame⟩ := State.redated_of_kept unique hz.1 ((z.kept_iff _ _).2 hz.2)
    exact absurd (frame.trans sameFrame) (made.missing x hx)

/-! ## The stages as folds -/

theorem State.fillPlaces_eq_foldl {frames : List Nat} {g : State → Nat → State}
    (hg : ∀ (q : State) (j f : Nat), frames[j]? = some f →
      g q j = if (q.window h).holds f = none then q.createSlot h f j else q) (l : List Nat) :
    ∀ (q : State) (j : Nat), frames.drop j = l → q.fillPlaces h j l = (List.range' j l.length).foldl g q := by
  induction l with
  | nil => intro q j _; rfl
  | cons f l ih =>
    intro q j rest
    have place : frames[j]? = some f := by
      rw [← List.head?_drop, rest]
      rfl
    have rest : frames.drop (j + 1) = l := by rw [← List.tail_drop, rest]; rfl
    have holds : (q.window h).holds f = none ↔ f ∉ (q.window h).slots.map Slot.frame := by
      rw [← Option.not_isSome_iff_eq_none, Window.holds_isSome_iff, List.mem_map]
    rw [List.length_cons, List.range'_succ, List.foldl_cons, hg q j f place]
    by_cases present : f ∈ (q.window h).slots.map Slot.frame
    · rw [State.fillPlaces_present present, if_neg (fun e => holds.1 e present)]
      exact ih q (j + 1) rest
    · rw [State.fillPlaces_missing present, if_pos (holds.2 present)]
      exact ih _ (j + 1) rest

end Sys2Proof.Machine
end

section
/-! PROOFS. Windows follow the sequence: the statement, put together from the rules above. -/

namespace Sys2Proof.Machine

open Sys2Proof

variable {s : State} {h : Handle}

/-- The cursor after a re-target is the frame that follows the new window (R65). -/
theorem State.cursor_retarget (s : State) (h : Handle) : ((s.retarget h).window h).cursor
    = sequenceFrame (s.frameCount (s.stream h)) (s.stream h).position (s.stream h).stride
        (s.targetFrames h).length := by
  rw [State.retarget_eq, State.setCursor, State.window_setWindow]

/-- A detach from a span, by what is left of its use (R82, R84). -/
theorem State.detachSpan_cases {serial i : Nat} {x : Span} (span : s.buffer.span i = some x)
    (user : ∃ r ∈ x.refs, r.handle = h ∧ r.slot = serial) :
    let left := x.refs.filter (fun r => !(r.handle == h && r.slot == serial))
    let p := s.putSpan i { x with refs := left }
    (x.state = .valid → s.detachSpan h serial i = if left = [] ∧ x.pins = 0 then p.restSpan i else p)
    ∧ (x.state = .stale → s.detachSpan h serial i = if left = [] ∧ x.pins = 0 then p.freeSpan i else p)
    ∧ ∀ f : Fetch, x.state = .filling f →
      (left ≠ [] → s.detachSpan h serial i
        = s.putSpan i { x with refs := left, state := .filling { f with deadline := earliest left } })
      ∧ (left = [] → f.state = .issued → s.detachSpan h serial i = p)
      ∧ (left = [] → f.state ≠ .issued → s.detachSpan h serial i = p.freeSpan i) := by
  intro left p
  have put : p.buffer.span i = some { x with refs := left } := s.span_putSpan i _
  rw [State.detachSpan_referrer span user]
  refine ⟨fun valid => State.settleUse_valid put valid, fun stale => State.settleUse_stale put stale,
    fun f filling => ⟨fun used => ?_, fun unused issued => ?_, fun unused returned => ?_⟩⟩
  · exact (State.settleUse_wanted put filling used).trans (s.putSpan_putSpan i _ _)
  · exact (State.settleUse_orphan put filling unused).trans (if_pos issued)
  · exact (State.settleUse_orphan put filling unused).trans (if_neg returned)

/-- Settles O26: each clause is a rule of the window manager or of the span buffer, proved above. -/
theorem windowsFollowTheSequence : Obligations.WindowsFollowTheSequence := by
  refine ⟨fun s h => ⟨fun still => ?still, State.topUp_ends⟩, ?frames, ?deadlines, fun x f => ?pages,
    fun s r => ⟨rfl, fun e rest => rfl⟩, fun s h f j x bound => ?create, fun s r k => ?attach,
    SpanBuffer.take_cases, fun s h serial z known => ?detach, fun s h serial i x span => ?use, ?passes, ?stages⟩
  case still =>
    unfold State.topUp
    rw [still]
    rfl
  case frames =>
    intro s h r n w wanted step inside
    refine ⟨fun windowed empty => ?_, State.frames_retarget step, fun unique frames fresh => ?_⟩
    · rw [State.frames_build step inside windowed empty]
      exact (sequenceFrames_min step inside _).symm
    · exact ⟨Slot.serials_of_identities (State.sending_retarget unique), State.cursor_retarget s h,
        fun j y at_j => State.retarget_place step unique frames at_j⟩
  case deadlines =>
    intro s h c w
    refine ⟨fun n d j rate => ⟨fun playing => State.slotDeadline_playing rate playing j,
      fun still => State.slotDeadline_idle rate still j⟩, State.takeAnchor_eq s h, State.window_recomputeDeadlines,
      State.recomputeDeadlines_eq_dated s h, fun serial time z i x known span => ?_⟩
    intro u
    have buffer : u.buffer = _ := State.buffer_setDeadline known time
    rw [buffer]
    exact State.span_mapEntries_cases (g := fun r => { r with deadline := time }) (fun _ => rfl) z.pages span
  case pages =>
    exact ⟨RenditionRecord.pageList_outside, RenditionRecord.pageList_entries⟩
  case create =>
    intro d w c y
    rw [State.createSlot_eq]
    have creation : s.creation h f j = c := by
      unfold State.creation
      rw [bound]
    have slot : s.newSlot h f j = y := by
      unfold State.newSlot
      rw [creation]
    rw [creation, slot]
    rfl
  case attach =>
    intro b gains waits
    refine ⟨fun i => SpanBuffer.find_eq_some, SpanBuffer.find_eq_none, fun i x found span => ⟨fun valid => ?_,
      fun f filling unmarked => ?_⟩, fun absent => ⟨fun awaited => ?_, fun fresh => ⟨fun full => ?_,
      fun i c taken => ?_⟩⟩⟩
    · exact State.attach_valid found span valid
    · exact State.attach_filling found span filling unmarked
    · exact State.attach_awaited absent awaited r
    · exact State.attach_waits absent fresh full r
    · exact State.attach_takes absent fresh taken r
  case detach =>
    intro named leaves u w
    have pass : (fun q k => State.detachKey q h serial k) = fun q k => match named q k with
        | some i => q.detachSpan h serial i
        | none => leaves q k := by
      funext q k
      cases e : named q k with
      | none => exact State.detachKey_unnamed ((q.namedSpan_eq_bind h serial k).trans e)
      | some i => exact State.detachKey_named ((q.namedSpan_eq_bind h serial k).trans e)
    rw [State.detachSlot_known known, pass]
    rfl
  case use =>
    intro left u p rests freed
    refine ⟨State.detachSpan_other span, fun user => ?_⟩
    obtain ⟨valid, stale, filling⟩ := State.detachSpan_cases span user
    rw [State.freeSpan_putSpan] at stale
    exact ⟨valid, stale, fun f e => by
      obtain ⟨used, issued, returned⟩ := filling f e
      rw [State.freeSpan_putSpan] at returned
      exact ⟨used, issued, returned⟩⟩
  case passes =>
    intro s h r w
    refine ⟨fun _ => rfl, fun l => State.detachSlots_eq_foldl h l s, rfl, rfl, State.topUp_done,
      fun f windowed cursor room => ?_⟩
    intro t next
    have place : sequenceFrame (s.frameCount r) f r.stride 1
        = if 0 ≤ next ∧ next < s.frameCount r then some next.toNat else none := by
      have : (f : Int) + r.stride * (1 : Nat) = next := by simp [next]
      unfold sequenceFrame
      rw [this]
    rw [State.topUp_pass windowed cursor room, place]
    rfl
  case stages =>
    intro s h r n w wanted unwanted u holds v places dated filled
    have trimmed : s.trimmed h = u := by
      have unkept : s.unwanted h = unwanted := by
        refine List.filter_congr fun z _ => ?_
        unfold Slot.kept
        rw [List.contains_eq_mem]
        rfl
      rw [State.trimmed, unkept, State.detachSlots_eq_foldl]
    have arranged : s.arranged h = v := by
      unfold v
      rw [← trimmed]
      rfl
    have redated : s.redated h = dated := by
      unfold State.redated
      rw [arranged]
      exact (State.dated_places v h wanted fun _ => rfl).symm
    have target : s.targetFrames h = wanted := rfl
    have fills : dated.fillPlaces h 0 wanted = filled := by
      unfold filled places
      rw [List.range_eq_range']
      exact State.fillPlaces_eq_foldl (frames := wanted) (fun q j f place => by rw [place]; rfl) wanted dated 0 rfl
    rw [State.retarget_eq, redated, target, fills]
    rfl

end Sys2Proof.Machine
end

section
/-! PROOFS. The counts of the stream records and the handle of the commit walk stay in range: station verbs, timers and
transmission ends by `Keeps`, the rest because it moves neither the records nor the walk, and the walk by its own two
commands. -/

namespace Sys2Proof.Machine

open Sys2Proof

/-- Events that leave the same state end alike. -/
theorem settled_congr {u v : State} (e : u = v) : (.next u.settle : Answer) = .next v.settle := by rw [e]

/-! ## What an OPEN can do (R24) -/

/-- An OPEN is refused, or fills the lowest CLOSED record by the table of R26. -/
theorem State.openVerb_cases (s : State) (a : Arrival) (req clip : Word) (choice depth late : Byte) :
    (∃ e, s.openVerb a req clip choice depth late = s.refuseOpen a.src req e)
      ∨ ∃ h c ch l d st q, s.closedHandle = some h
        ∧ s.placement (s.shedsAtOpen a.src .demote) c ch (s.openDepth a.src d) = some (st, q)
        ∧ s.openVerb a req clip choice depth late
          = s.openAt a.src req h c (s.newStream a.src c (c.edition.getD 0) ch l d st q) := by
  unfold State.openVerb State.openWith
  split
  · exact .inl ⟨_, rfl⟩
  · split
    · exact .inl ⟨_, rfl⟩
    · split
      · exact .inl ⟨_, rfl⟩
      · split
        · exact .inl ⟨_, rfl⟩
        · rename_i found
          split
          · exact .inl ⟨_, rfl⟩
          · split
            · exact .inl ⟨_, rfl⟩
            · split
              · exact .inl ⟨_, rfl⟩
              · rename_i placed
                exact .inr ⟨_, _, _, _, _, _, _, found, placed, rfl⟩

/-! ## The effects of messages and timers below the ports -/

namespace Keeps

variable {s t : State}

theorem startProbe (k : Keeps s t) (h : Handle) (c : Clip) : Keeps s (t.startProbe h c) := by
  have timed := k.edit h (r := { t.stream h with
    probe := some t.probes, probeExpiry := some (t.now + t.tables.active.policy.probeWindow * 1000) }) rfl rfl
  unfold State.startProbe
  apply placeControl
  exact { timed with }

theorem openAt (k : Keeps s t) (station : Half) (req : Word) (h : Handle) (c : Clip) {r : Stream} (fresh : r.Counted) :
    Keeps s (t.openAt station req h c r) := by
  have filled := (k.setStream h (r := r) (fun _ => fresh)).answer station req (BitVec.ofNat 8 h.1) .accepted
  unfold State.openAt
  dsimp only
  split
  · exact filled.startProbe h c
  · exact filled.notify h _

theorem openVerb (k : Keeps s t) (a : Arrival) (req clip : Word) (choice depth late : Byte) :
    Keeps s (t.openVerb a req clip choice depth late) := by
  obtain ⟨e, h⟩ | ⟨h, c, ch, l, d, st, q, -, -, e⟩ := t.openVerb_cases a req clip choice depth late
  · rw [h]
    exact k.answer ..
  · rw [e]
    exact k.openAt _ _ _ _ ⟨Nat.zero_le _, Nat.zero_le _⟩

/-- A verb is refused by an SA, or has the effect that its checks let through. -/
theorem judge (k : Keeps s t) (a : Arrival) (req : Word) (b : Byte) (checked : Except StreamResult Handle)
    {effect : Handle → State} (admitted : ∀ h, Keeps s (effect h)) : Keeps s (t.judge a req b checked effect) := by
  unfold State.judge
  split
  · exact k.answer ..
  · exact admitted _

theorem moveStream (k : Keeps s t) (a : Arrival) (req : Word) (b : Byte) (h : Handle) (frame : Word) (stride : Int)
    (autoplay : Bool) : Keeps s (t.moveStream a req b h frame stride autoplay) :=
  (((k.edit h (r := { t.stream h with position := frame.toNat, stride := stride }) rfl rfl).enterPriming h
    autoplay).answer a.src req b .accepted).reportPriming h

theorem playStream (k : Keeps s t) (a : Arrival) (req : Word) (b : Byte) (h : Handle) :
    Keeps s (t.playStream a req b h) := by
  unfold State.playStream
  split
  · exact ((k.enterPriming h true).answer ..).reportPriming h
  · exact (k.edit h (r := { t.stream h with autoplay := true }) rfl rfl).answer ..
  · exact (k.answer ..).enterPlaying h
  · exact (k.answer ..).enterPlaying h
  · exact k.answer ..

theorem pauseStream (k : Keeps s t) (a : Arrival) (req : Word) (b : Byte) (h : Handle) :
    Keeps s (t.pauseStream a req b h) := by
  unfold State.pauseStream
  split
  · exact (k.answer ..).pauseFor ..
  · exact (k.edit h (r := { t.stream h with autoplay := false }) rfl rfl).answer ..
  · split
    · exact k.answer ..
    · exact (k.answer ..).pauseFor ..
  · exact k.answer ..

theorem closeStream (k : Keeps s t) (a : Arrival) (req : Word) (b : Byte) (h : Handle) :
    Keeps s (t.closeStream a req b h) := by
  unfold State.closeStream
  split
  · exact k.answer ..
  · exact ((k.beginClose h false).answer ..).finishClose h

theorem takeProbeReply (k : Keeps s t) (a : Arrival) (b verdict : Byte) (number : Half) :
    Keeps s (t.takeProbeReply a b verdict number) := by
  unfold State.takeProbeReply
  split
  · split
    · exact k.endNegotiation ..
    · exact k
  · exact k

/-- Credit saturates at 255 (R49). -/
theorem addCredit (k : Keeps s t) (h : Handle) (n : Nat) : Keeps s (t.addCredit h n) :=
  k.setStream h fun counted => ⟨Nat.min_le_left _ _, (k.counted counted h).2⟩

theorem takeCredit (k : Keeps s t) (a : Arrival) (b n : Byte) : Keeps s (t.takeCredit a b n) := by
  unfold State.takeCredit
  split
  · exact k
  · split
    · exact (k.addCredit _ _).settleWait _
    · exact k

theorem endProbe (k : Keeps s t) (h : Handle) : Keeps s (t.endProbe h) := by
  unfold State.endProbe
  split
  · exact k.endNegotiation ..
  · exact k

theorem takeDue (k : Keeps s t) (h : Handle) : Keeps s (t.takeDue h) := by
  unfold State.takeDue
  split
  · exact k.decideDue h
  · exact k

end Keeps

/-! ## The range of the counts and of the walk -/

/-- The counts of every record and the next handle of the commit walk are in range. -/
def State.Ranged (s : State) : Prop := s.Counted ∧ s.WalkOk

/-- An effect leaves the counts and the walk in range. -/
abbrev Ranging (effect : State → State) : Prop := ∀ s : State, s.Ranged → (effect s).Ranged

theorem State.Ranged.of_same {s t : State} (r : s.Ranged) (streams : t.streams = s.streams)
    (walk : t.tables.walk = s.tables.walk) : t.Ranged := by
  obtain ⟨counted, ok⟩ := r
  refine ⟨fun h => ?_, ?_⟩
  · have := counted h
    unfold State.stream at *
    rwa [streams]
  · unfold State.WalkOk at *
    rwa [walk]

theorem State.Ranged.keeps {s t : State} (r : s.Ranged) (k : Keeps s t) : t.Ranged := by
  obtain ⟨counted, ok⟩ := r
  refine ⟨k.counted counted, ?_⟩
  unfold State.WalkOk at *
  rwa [k.tables]

theorem State.Ranged.settle {s : State} (r : s.Ranged) : s.settle.Ranged := by
  obtain ⟨counted, ok⟩ := r
  have steady := Steady.settle s
  refine ⟨steady.counted counted, ?_⟩
  unfold State.WalkOk at *
  rwa [steady.tables]

theorem State.Ranged.stamp {s : State} (r : s.Ranged) (t : Nat) : (s.stamp t).Ranged := r.of_same rfl rfl

theorem State.Ranged.waitOnLink {s : State} (r : s.Ranged) (p : Port) (c : Instr) : (s.waitOnLink p c).Ranged := by
  cases p <;> exact r.of_same rfl rfl

/-- An effect that `Keeps` covers. -/
theorem Ranging.of_keeps {effect : State → State} (k : ∀ s, Keeps s (effect s)) : Ranging effect :=
  fun s r => r.keeps (k s)

/-- An effect that moves neither the records nor the tables. -/
theorem Ranging.of_same {effect : State → State} (streams : ∀ s, (effect s).streams = s.streams)
    (tables : ∀ s, (effect s).tables = s.tables) : Ranging effect :=
  fun s r => r.of_same (streams s) (by rw [tables])

theorem Ranging.readable {effect : State → State} (e : Ranging effect) (a : Arrival) :
    Ranging (fun s => s.readable a effect) := fun s r => by
  unfold State.readable
  split
  · exact r
  · exact e s r

theorem Ranging.readableManage {effect : State → State} (e : Ranging effect) (a : Arrival) :
    Ranging (fun s => s.readableManage a effect) := e.readable a

/-! ## Commands by the way they reach the part -/

/-- A message given by its fields changes nothing but time, waits on its link, or has its effect. -/
theorem State.arrive_cases (s : State) (p : Port) (c : Instr) (time : Nat) (src : Half) (effect : State → State) :
    s.arrive p c time src effect = s.stamp time
      ∨ s.arrive p c time src effect = (s.stamp time).waitOnLink p c
      ∨ s.Taking p src ∧ s.arrive p c time src effect = (effect (s.stamp time)).settle := by
  cases up : s.linkUp p with
  | false => exact .inl (State.arrive_down up)
  | true => cases held : s.waits p with
    | true => exact .inr (.inl (State.arrive_held up held))
    | false => cases ok : s.sourceOk p src with
      | false => exact .inl (State.arrive_refused up held ok)
      | true => exact .inr (.inr ⟨⟨up, held, ok⟩, State.arrive_taken ⟨up, held, ok⟩⟩)

/-- A message given as its whole frame changes nothing but time, waits on its link, or has its effect. -/
theorem State.arriveFrame_cases (s : State) (p : Port) (c : Instr) (time : Nat) (f : Frame) (effect : State → State) :
    s.arriveFrame p c time f effect = s.stamp time
      ∨ s.arriveFrame p c time f effect = (s.stamp time).waitOnLink p c
      ∨ s.TakingFrame p f ∧ s.arriveFrame p c time f effect = (effect (s.stamp time)).settle := by
  cases up : s.linkUp p with
  | false => exact .inl (State.arriveFrame_down up)
  | true => cases held : s.waits p with
    | true => exact .inr (.inl (State.arriveFrame_held up held))
    | false => cases ok : s.headerOk p f with
      | false => exact .inl (State.arriveFrame_refused up held ok)
      | true => exact .inr (.inr ⟨⟨up, held, ok⟩, State.arriveFrame_taken ⟨up, held, ok⟩⟩)

section Commands

variable {c : Instr} {effect : State → State}

/-- A message given by its fields. -/
theorem ranged_of_arrive {p : Port} {time : Nat} {src : Half}
    (run : ∀ s, exec c s = .next (s.arrive p c time src effect)) (e : Ranging effect) : ExecKeeps c State.Ranged := by
  intro s t r h
  obtain rfl := Host.Outcome.next.inj ((run s).symm.trans h)
  have stamped := r.stamp time
  obtain h | h | ⟨-, h⟩ := s.arrive_cases _ _ _ _ effect
  · rw [h]
    exact stamped
  · rw [h]
    exact stamped.waitOnLink _ _
  · rw [h]
    exact (e _ stamped).settle

/-- A message given as its whole frame. -/
theorem ranged_of_arriveFrame {p : Port} {time : Nat} {f : Frame}
    (run : ∀ s, exec c s = .next (s.arriveFrame p c time f effect)) (e : Ranging effect) :
    ExecKeeps c State.Ranged := by
  intro s t r h
  obtain rfl := Host.Outcome.next.inj ((run s).symm.trans h)
  have stamped := r.stamp time
  obtain h | h | ⟨-, h⟩ := s.arriveFrame_cases _ _ _ _ effect
  · rw [h]
    exact stamped
  · rw [h]
    exact stamped.waitOnLink _ _
  · rw [h]
    exact (e _ stamped).settle

/-- An event of the part's own. -/
theorem ranged_of_event {time : Nat} (run : ∀ s, exec c s = .next (s.event time effect)) (e : Ranging effect) :
    ExecKeeps c State.Ranged := by
  intro s t r h
  obtain rfl := Host.Outcome.next.inj ((run s).symm.trans h)
  exact (e _ (r.stamp time)).settle

end Commands

/-! ## The effects that `Keeps` does not cover -/

theorem State.streams_forwardToFloor (s : State) (f : Frame) : (s.forwardToFloor f).streams = s.streams
    ∧ (s.forwardToFloor f).tables = s.tables := by
  unfold State.forwardToFloor State.joinTurns
  split
  · split <;> exact ⟨rfl, rfl⟩
  · exact ⟨rfl, rfl⟩

theorem State.Ranged.forwardToFloor {s : State} (r : s.Ranged) (f : Frame) : (s.forwardToFloor f).Ranged :=
  r.of_same (s.streams_forwardToFloor f).1 (by rw [(s.streams_forwardToFloor f).2])

theorem State.Ranged.forwardToArray {s : State} (r : s.Ranged) (f : Frame) : (s.forwardToArray f).Ranged := by
  unfold State.forwardToArray
  split
  · exact r.of_same rfl rfl
  · exact r

theorem State.Ranged.answerManage {s : State} (r : s.Ranged) (dst : Half) (req : Word) (verb : Byte)
    (result : ManageResult) (body : AnswerBody) : (s.answerManage dst req verb result body).Ranged := by
  unfold State.answerManage
  split
  · exact r.of_same rfl rfl
  · exact r

theorem State.Ranged.reply {s : State} (r : s.Ranged) (a : Arrival) (req : Word) (v : ManageVerb)
    (result : ManageResult) : (s.reply a req v result).Ranged := r.answerManage ..

theorem State.Ranged.placeGrant {s : State} (r : s.Ranged) : s.placeGrant.Ranged := by
  unfold State.placeGrant
  dsimp only
  split
  · exact r.of_same rfl rfl
  · exact r.of_same rfl rfl

theorem State.Ranged.setQuiesce {s : State} (r : s.Ranged) (q : Quiesce) : (s.setQuiesce q).Ranged := by
  have moved : State.Ranged { s with array := { s.array with quiesce := q } } := r.of_same rfl rfl
  unfold State.setQuiesce
  dsimp only
  split
  · exact moved
  · exact moved.keeps ((Keeps.refl _).transition _)

theorem State.Ranged.drainEnd {s : State} (r : s.Ranged) : s.drainEnd.Ranged := by
  unfold State.drainEnd
  split
  · exact (r.setQuiesce _).placeGrant
  · exact r

theorem State.Ranged.stage {s : State} (r : s.Ranged) (a : Arrival) (req : Word) (v : ManageVerb)
    (edit : Except ManageResult Bank) : (s.stage a req v edit).Ranged := by
  unfold State.stage
  split
  · exact r.reply ..
  · split
    · exact r.reply ..
    · have edited (b : Bank) : State.Ranged { s with tables := { s.tables with staged := b } } := r.of_same rfl rfl
      exact (edited _).reply ..

theorem State.Ranged.bare {s : State} (r : s.Ranged) (a : Arrival) (req : Word) (v : ManageVerb)
    {effect : State → State} (e : Ranging effect) : (s.bare a req v effect).Ranged := by
  unfold State.bare
  split
  · exact e s r
  · exact r.reply ..

theorem State.Ranged.offerRead {s : State} (r : s.Ranged) (f : Frame) : (s.offerRead f).Ranged := by
  unfold State.offerRead
  split
  · exact r.forwardToArray f
  · split
    · exact r.forwardToArray f
    · exact r.keeps ((Keeps.refl s).startAnswer ..)

theorem State.Ranged.takeRewrite {s : State} (r : s.Ranged) (f : Frame) : (s.takeRewrite f).Ranged := by
  have rewritten (w : Rewrite) : (s.rewrite w).Ranged := r.keeps ((Keeps.refl s).rewrite w)
  unfold State.takeRewrite
  split
  · exact r
  · split
    · exact rewritten _
    · exact (rewritten _).forwardToFloor f

theorem State.Ranged.blockData {s : State} (r : s.Ranged) (len : Nat) (tag : Half) (offset count : Nat) (final : Bool)
    (total : Nat) (check : Word) (data : List Byte) :
    (s.blockData len tag offset count final total check data).Ranged := by
  have stale : s.staleReply.Ranged := r.keeps (Keeps.refl s).staleReply
  have stored (a : Nat) (bs : List Byte) : (s.store a bs).Ranged := r.of_same rfl rfl
  unfold State.blockData
  dsimp only
  split
  · exact stale
  · split
    · exact stale
    · split
      · exact stale
      · split
        · exact stale
        · split
          · split
            · exact (stored _ _).keeps (((Keeps.refl _).putSpan _ _).finalBlock ..)
            · exact (stored _ _).keeps ((Keeps.refl _).putSpan _ _)
          · exact r.keeps ((Keeps.refl s).failedAttempt ..)

theorem State.Ranged.takeQuiesceRequest {s : State} (r : s.Ranged) (src : Half) :
    (s.takeQuiesceRequest src).Ranged := by
  have asked : State.Ranged { s with array := { s.array with asker := some src } } := r.of_same rfl rfl
  unfold State.takeQuiesceRequest
  split
  · exact ((asked.setQuiesce _).keeps (Keeps.refl _).leaveOpen).drainEnd
  · exact r
  · split
    · exact r
    · exact asked.placeGrant

theorem State.Ranged.takeQuiesceEnd {s : State} (r : s.Ranged) : s.takeQuiesceEnd.Ranged := by
  have dropped : s.dropGrants.Ranged := r.of_same rfl rfl
  unfold State.takeQuiesceEnd
  split
  · exact r
  · exact dropped.setQuiesce _
  · exact dropped.setQuiesce _

/-- A full reset leaves every count at 0 and no walk. -/
theorem State.Ranged.fullReset (s : State) (pins : Straps) : (s.fullReset pins).Ranged := by
  refine ⟨fun h => ?_, trivial⟩
  change ((State.resetWith pins).stream h).Counted
  rw [State.stream_resetWith]
  exact ⟨Nat.zero_le _, Nat.zero_le _⟩

/-! ## The commit walk -/

/-- A walk starts at handle 0. -/
theorem State.Ranged.swap {s : State} (r : s.Ranged) (asker : Half) (req : Word) : (s.swap asker req).Ranged := by
  have walking : State.Ranged { s with tables := s.tables.swap asker req } := ⟨r.1, Nat.zero_le 128⟩
  exact walking.keeps ((Keeps.refl _).rearm _)

theorem State.Ranged.takeCommit {s : State} (r : s.Ranged) (a : Arrival) (req : Word) :
    (s.takeCommit a req).Ranged := by
  unfold State.takeCommit
  split
  · exact r.reply ..
  · split
    · exact r.reply ..
    · split
      · exact r.reply ..
      · split
        · exact r.reply ..
        · exact r.swap ..

/-- A visit moves the walk on from a handle below 128 only. -/
theorem State.Ranged.walkVisit {s : State} (r : s.Ranged) : s.walkVisit.Ranged := by
  unfold State.walkVisit
  split
  · exact r
  · split
    · rename_i n asker req walk below
      exact ⟨(r.keeps ((Keeps.refl s).visit ⟨n, below⟩)).1, Nat.succ_le_of_lt below⟩
    · exact r

theorem State.Ranged.walkEnd {s : State} (r : s.Ranged) : s.walkEnd.Ranged := by
  have ended : State.Ranged { s with tables := s.tables.endWalk } := ⟨r.1, trivial⟩
  unfold State.walkEnd
  split
  · exact r
  · split
    · exact r
    · unfold State.answerCommit
      split
      · exact ended
      · split
        · exact ended.of_same rfl rfl
        · exact ended.of_same rfl rfl

theorem State.Ranged.takeClear {s : State} (r : s.Ranged) (a : Arrival) (req : Word) (rule : Byte) :
    (s.takeClear a req rule).Ranged := by
  unfold State.takeClear
  split
  · exact r.reply ..
  · exact (r.keeps ((Keeps.refl s).clearRule _)).reply ..

theorem State.Ranged.takeReadClip {s : State} (r : s.Ranged) (a : Arrival) (req clip : Word) (bank given : Byte)
    (edition : Word) : (s.takeReadClip a req clip bank given edition).Ranged := by
  unfold State.takeReadClip
  split
  · exact r.reply ..
  · split
    · exact r.reply ..
    · exact r.answerManage ..

theorem State.Ranged.takeReadStream {s : State} (r : s.Ranged) (a : Arrival) (req : Word) (b : Byte) :
    (s.takeReadStream a req b).Ranged := by
  unfold State.takeReadStream
  split
  · exact r.reply ..
  · split
    · exact r.answerManage ..
    · exact r.reply ..

/-! ## Transmissions and links -/

theorem State.Ranged.endAnswerBlock {s : State} (r : s.Ranged) (serial : Nat) (bd : AnswerData) :
    (s.endAnswerBlock serial bd).Ranged := by
  have free : s.freeFloor.Ranged := r.of_same rfl rfl
  unfold State.endAnswerBlock
  dsimp only
  split
  · exact r
  · split
    · exact free.keeps ((Keeps.refl _).endAnswer _)
    · exact free.keeps ((Keeps.refl _).handBlock _)

theorem State.Ranged.endFrame {s : State} (r : s.Ranged) (d : Delivery) : (s.endFrame d).Ranged := by
  have free : State.Ranged { s with tx := { s.tx with sending := none, current := none } } := r.of_same rfl rfl
  exact free.keeps ((Keeps.refl _).transmissionEnded ..)

theorem State.Ranged.endFloorMessage {s : State} (r : s.Ranged) : s.endFloorMessage.Ranged := by
  have free : s.freeFloor.Ranged := r.of_same rfl rfl
  unfold State.endFloorMessage
  split
  · exact r
  · exact free
  · exact free
  · exact r.endAnswerBlock ..
  · split
    · exact r.endFrame _
    · exact free

theorem State.Ranged.endLastSegment {s : State} (r : s.Ranged) : s.endLastSegment.Ranged := by
  unfold State.endLastSegment
  split
  · split
    · exact r.endFrame _
    · exact r
  · exact r

theorem State.Ranged.endSentBlock {s : State} (r : s.Ranged) : s.endSentBlock.Ranged := by
  unfold State.endSentBlock
  split
  · exact r.endAnswerBlock ..
  · exact r

theorem State.Ranged.joinGrant {s : State} (r : s.Ranged) : s.joinGrant.Ranged := by
  unfold State.joinGrant
  split
  · split
    · exact r.of_same rfl rfl
    · exact r
  · exact r

theorem State.Ranged.joinAnswer {s : State} (r : s.Ranged) : s.joinAnswer.Ranged := by
  unfold State.joinAnswer
  split
  · split
    · exact r.of_same rfl rfl
    · exact r
  · exact r

theorem State.Ranged.handOver {s : State} (r : s.Ranged) : s.handOver.Ranged := by
  unfold State.handOver
  split
  · exact r
  · split
    · exact r.of_same rfl rfl
    · exact r

theorem State.Ranged.loseArray {s : State} (r : s.Ranged) : s.loseArray.Ranged := by
  have emptied : (State.emptyArray { s with array := { s.array with linkUp := false } }).Ranged := r.of_same rfl rfl
  exact (emptied.setQuiesce _).keeps (Keeps.refl _).returnIssued

theorem State.Ranged.loseFloor {s : State} (r : s.Ranged) : s.loseFloor.Ranged := by
  have emptied : (State.emptyFloor { s with floor := { s.floor with linkUp := false } }).Ranged := r.of_same rfl rfl
  exact emptied.keeps (((Keeps.refl _).abandonAnswers _).closeAll _)

/-! ## Every command, and every step -/

/-- A condition chooses between an effect and none. -/
theorem Ranging.ite {p : State → Prop} [DecidablePred p] {effect : State → State} (e : Ranging effect) :
    Ranging (fun s => if p s then effect s else s) := fun s r => by
  dsimp only
  split
  · exact e s r
  · exact r

theorem exec_keeps_ranged (c : Instr) : ExecKeeps c State.Ranged := by
  have sq {p : Port} {c : Instr} {a : Arrival} {effect : State → State}
      (run : ∀ s, exec c s = .next (s.arrive p c a.time a.src (fun s => s.readable a effect)))
      (k : ∀ s, Keeps s (effect s)) : ExecKeeps c State.Ranged :=
    ranged_of_arrive run ((Ranging.of_keeps k).readable a)
  have mq {p : Port} {c : Instr} {a : Arrival} {effect : State → State}
      (run : ∀ s, exec c s = .next (s.arrive p c a.time a.src (fun s => s.readableManage a effect)))
      (e : Ranging effect) : ExecKeeps c State.Ranged := ranged_of_arrive run (e.readableManage a)
  cases c with
  | openStream a req clip choice depth late => exact sq (fun _ => rfl) fun s => (Keeps.refl s).openVerb ..
  | prime a req b frame stride =>
    exact sq (fun _ => rfl) fun s => (Keeps.refl s).judge a req b _ fun h => (Keeps.refl s).moveStream ..
  | start a req b frame stride =>
    exact sq (fun _ => rfl) fun s => (Keeps.refl s).judge a req b _ fun h => (Keeps.refl s).moveStream ..
  | seek a req b frame stride =>
    exact sq (fun _ => rfl) fun s => (Keeps.refl s).judge a req b _ fun h => (Keeps.refl s).moveStream ..
  | play a req b =>
    exact sq (fun _ => rfl) fun s => (Keeps.refl s).judge a req b _ fun h => (Keeps.refl s).playStream ..
  | pause a req b =>
    exact sq (fun _ => rfl) fun s => (Keeps.refl s).judge a req b _ fun h => (Keeps.refl s).pauseStream ..
  | close a req b =>
    exact sq (fun _ => rfl) fun s => (Keeps.refl s).judge a req b _ fun h => (Keeps.refl s).closeStream ..
  | unknownStationVerb a req verb b => exact sq (fun _ => rfl) fun s => (Keeps.refl s).answer ..
  | probeReply a b verdict number =>
    exact ranged_of_arrive (fun _ => rfl) (.of_keeps fun s => (Keeps.refl s).takeProbeReply ..)
  | creditGrant a b n => exact ranged_of_arrive (fun _ => rfl) (.of_keeps fun s => (Keeps.refl s).takeCredit ..)
  | stationBlockRead t f => exact ranged_of_arriveFrame (fun _ => rfl) (Ranging.ite fun s r => r.offerRead f)
  | malformedFrame t p f =>
    intro s u r e
    obtain rfl := Host.Outcome.next.inj e
    have stamped := r.stamp t
    split
    · exact stamped.waitOnLink ..
    · exact stamped
  | blockDataForPart a tag offset count final total check data =>
    exact ranged_of_arrive (fun _ => rfl) fun s r => (r.blockData ..).drainEnd
  | deferForPart a tag delay =>
    exact ranged_of_arrive (fun _ => rfl) fun s r => (r.keeps ((Keeps.refl s).deferReply ..)).drainEnd
  | forwardedArrayMessage t f => exact ranged_of_arriveFrame (fun _ => rfl) (Ranging.ite fun s r => r.forwardToFloor f)
  | rewriteNotice t f => exact ranged_of_arriveFrame (fun _ => rfl) (Ranging.ite fun s r => r.takeRewrite f)
  | quiesceRequest a => exact ranged_of_arrive (fun _ => rfl) (Ranging.ite fun s r => r.takeQuiesceRequest a.src)
  | quiesceEnd a => exact ranged_of_arrive (fun _ => rfl) (Ranging.ite fun s r => r.takeQuiesceEnd)
  | stageClip a req offer => exact mq (fun _ => rfl) fun s r => r.stage ..
  | unstageClip a req clip => exact mq (fun _ => rfl) fun s r => r.stage ..
  | stageStation a req n shedClass limit => exact mq (fun _ => rfl) fun s r => r.stage ..
  | unstageStation a req n => exact mq (fun _ => rfl) fun s r => r.stage ..
  | stagePolicy a req offer => exact mq (fun _ => rfl) fun s r => r.stage ..
  | stageRule a req offer => exact mq (fun _ => rfl) fun s r => r.stage ..
  | discardStage a req => exact mq (fun _ => rfl) fun s r => r.stage ..
  | commit a req => exact mq (fun _ => rfl) fun s r => r.takeCommit a req
  | clearShed a req rule => exact mq (fun _ => rfl) fun s r => r.takeClear a req rule
  | readClip a req clip bank given edition => exact mq (fun _ => rfl) fun s r => r.takeReadClip ..
  | readStream a req b => exact mq (fun _ => rfl) fun s r => r.takeReadStream ..
  | readSpanCounts a req => exact mq (fun _ => rfl) fun s r => r.bare a req _ fun _ q => q.answerManage ..
  | readFetchCounts a req => exact mq (fun _ => rfl) fun s r => r.bare a req _ fun _ q => q.answerManage ..
  | resetStreams a req =>
    exact mq (fun _ => rfl) fun s r => r.bare a req _ fun q k => (k.keeps ((Keeps.refl q).closeAll _)).reply ..
  | resetPart a req => exact mq (fun _ => rfl) fun s r => r.bare a req _ fun q _ => State.Ranged.fullReset q _
  | unknownManageVerb a req verb => exact mq (fun _ => rfl) fun s r => r.answerManage ..
  | powerOn t pins =>
    intro s u r e
    obtain rfl := Host.Outcome.next.inj e
    exact State.Ranged.fullReset s pins
  | resetPin t pins =>
    intro s u r e
    obtain rfl := Host.Outcome.next.inj e
    exact State.Ranged.fullReset s pins
  | probeWindowExpiry t h => exact ranged_of_event (fun _ => rfl) (.of_keeps fun s => (Keeps.refl s).endProbe h)
  | dueTime t h => exact ranged_of_event (fun _ => rfl) (.of_keeps fun s => (Keeps.refl s).takeDue h)
  | readTimeout t tag => exact ranged_of_event (fun _ => rfl) fun s r => (r.keeps ((Keeps.refl s).timeOut tag)).drainEnd
  | notBeforeTimeReached t i => exact ranged_of_event (fun _ => rfl) (.of_keeps fun s => (Keeps.refl s).endDefer i)
  | issueHoldEnd t => exact ranged_of_event (fun _ => rfl) (Ranging.ite fun s r => r.of_same rfl rfl)
  | commitWalkVisit t => exact ranged_of_event (fun _ => rfl) fun s r => r.walkVisit
  | commitWalkEnd t => exact ranged_of_event (fun _ => rfl) fun s r => r.walkEnd
  | arrayTransmissionEnd t => exact ranged_of_event (fun _ => rfl) (.of_same (fun _ => rfl) fun _ => rfl)
  | floorTransmissionEnd t => exact ranged_of_event (fun _ => rfl) fun s r => r.endFloorMessage
  | frameTransmissionEnd t => exact ranged_of_event (fun _ => rfl) fun s r => r.endLastSegment
  | localAnswerBdSent t => exact ranged_of_event (fun _ => rfl) fun s r => r.endSentBlock
  | linkPartnerFlowControl t p holding =>
    exact ranged_of_event (fun _ => rfl) (Ranging.ite fun s r => by cases p <;> exact r.of_same rfl rfl)
  | arrayLinkDown t => exact ranged_of_event (fun _ => rfl) (Ranging.ite fun s r => r.loseArray)
  | arrayLinkUp t => exact ranged_of_event (fun _ => rfl) (Ranging.ite fun s r => r.of_same rfl rfl)
  | floorLinkDown t => exact ranged_of_event (fun _ => rfl) (Ranging.ite fun s r => r.loseFloor)
  | floorLinkUp t => exact ranged_of_event (fun _ => rfl) (Ranging.ite fun s r => r.of_same rfl rfl)
  | drainEnd t => exact ranged_of_event (fun _ => rfl) fun s r => r.drainEnd
  | waitingQgJoins t => exact ranged_of_event (fun _ => rfl) fun s r => r.joinGrant
  | waitingCommitAnswerJoins t => exact ranged_of_event (fun _ => rfl) fun s r => r.joinGrant.joinAnswer
  | mnHandover t => exact ranged_of_event (fun _ => rfl) fun s r => r.joinGrant.joinAnswer.handOver
  | allocationQueueServing t => exact ranged_of_event (fun _ => rfl) (.of_keeps fun s => (Keeps.refl s).serve)

/-- Settles O7: every command keeps the range, and the idle step moves neither a record nor the walk. -/
theorem stepKeepsCountsInRange : Obligations.StepKeepsCountsInRange := by
  intro s t r h
  unfold step at h
  split at h
  · obtain rfl := Host.Outcome.next.inj h
    exact State.Ranged.of_same (s := s) r rfl rfl
  · refine exec_keeps_ranged _ _ t ?_ h
    exact State.Ranged.of_same (s := s) r rfl rfl

end Sys2Proof.Machine
end

section
/-! PROOFS. Control messages for stations: placed, dropped or discarded by the floor link and the room in the queue. -/

namespace Sys2Proof.Machine

open Sys2Proof

variable {s : State}

theorem State.controlRoom_of_room (room : s.RoomFor 1) : s.controlRoom = true :=
  decide_eq_true (Nat.lt_of_succ_le room.2)

theorem State.controlRoom_of_full (full : 256 ≤ s.tx.control.length) : s.controlRoom = false :=
  decide_eq_false (Nat.not_lt.2 full)

/-! ## Placing (R158, R139) -/

theorem State.placeControl_down (down : s.floor.linkUp = false) (k : Option Handle) (m : FloorControl) :
    s.placeControl k m = s := by
  unfold State.placeControl
  rw [down]
  rfl

theorem State.placeControl_placed (room : s.RoomFor 1) (k : Option Handle) (m : FloorControl) :
    s.placeControl k m = s.pushControl m := by
  unfold State.placeControl
  rw [room.1, State.controlRoom_of_room room]
  rfl

theorem State.placeControl_dropped (up : s.floor.linkUp = true) (full : 256 ≤ s.tx.control.length)
    (k : Option Handle) (m : FloorControl) : s.placeControl k m = match k with
      | some h => s.loseNotice h
      | none => s := by
  unfold State.placeControl
  rw [up, State.controlRoom_of_full full]
  rfl

theorem State.loseNotice_live {h : Handle} (live : (s.stream h).live = true) :
    s.loseNotice h = s.setStream h { s.stream h with noticeLost := true } := by
  unfold State.loseNotice
  rw [if_pos live]

theorem State.loseNotice_dead {h : Handle} (dead : (s.stream h).live = false) : s.loseNotice h = s := by
  unfold State.loseNotice
  rw [dead]
  rfl

/-! ## Notices (R51) -/

theorem State.notify_owned {h : Handle} {dst : Half} (owner : (s.stream h).owner = some dst) (reason : Reason) :
    s.notify h reason = s.notifyTo dst h reason := by
  unfold State.notify
  rw [owner]

theorem State.notify_unowned {h : Handle} (owner : (s.stream h).owner = none) (reason : Reason) :
    s.notify h reason = s := by
  unfold State.notify
  rw [owner]

theorem State.notifyTo_down (down : s.floor.linkUp = false) (dst : Half) (h : Handle) (reason : Reason) :
    s.notifyTo dst h reason = s := by
  unfold State.notifyTo
  rw [down]
  rfl

theorem State.notifyTo_placed (room : s.RoomFor 1) (dst : Half) (h : Handle) (reason : Reason) :
    s.notifyTo dst h reason = (s.setStream h { s.stream h with noticeLost := false }).pushControl
      (.sn dst h (s.stream h).state reason (s.stream h).rendition (s.stream h).noticeLost (s.stream h).position) := by
  unfold State.notifyTo
  rw [room.1, State.controlRoom_of_room room]
  rfl

theorem State.notifyTo_dropped (up : s.floor.linkUp = true) (full : 256 ≤ s.tx.control.length) (dst : Half)
    (h : Handle) (reason : Reason) : s.notifyTo dst h reason = s.loseNotice h := by
  unfold State.notifyTo
  rw [up, State.controlRoom_of_full full]
  rfl

/-! ## What placing a control message leaves unchanged -/

/-- `t` follows from `s` by placing control messages for stations: nothing but the floor control queue and notice-lost
flags has changed. -/
structure OnlyPlaces (s t : State) : Prop where
  rest    : t = { s with streams := t.streams, tx := { s.tx with control := t.tx.control } }
  stream  : ∀ h : Handle, ∃ lost : Bool, t.stream h = { s.stream h with noticeLost := lost }

namespace OnlyPlaces

variable {t u : State}

theorem refl (s : State) : OnlyPlaces s s := ⟨rfl, fun h => ⟨(s.stream h).noticeLost, rfl⟩⟩

theorem trans (p : OnlyPlaces s t) (q : OnlyPlaces t u) : OnlyPlaces s u := by
  refine ⟨?_, fun h => ?_⟩
  · rw [q.rest, p.rest]
  · obtain ⟨x, hx⟩ := p.stream h
    obtain ⟨y, hy⟩ := q.stream h
    exact ⟨y, by rw [hy, hx]⟩

theorem pushControl (s : State) (m : FloorControl) : OnlyPlaces s (s.pushControl m) :=
  ⟨rfl, fun h => ⟨(s.stream h).noticeLost, rfl⟩⟩

theorem setNotice (s : State) (h : Handle) (lost : Bool) :
    OnlyPlaces s (s.setStream h { s.stream h with noticeLost := lost }) := by
  refine ⟨rfl, fun k => ?_⟩
  by_cases e : h = k
  · subst e
    exact ⟨lost, s.stream_setStream h _⟩
  · exact ⟨(s.stream k).noticeLost, s.stream_setStream_of_ne e _⟩

theorem loseNotice (s : State) (h : Handle) : OnlyPlaces s (s.loseNotice h) := by
  unfold State.loseNotice
  split
  · exact setNotice s h true
  · exact refl s

theorem placeControl (s : State) (k : Option Handle) (m : FloorControl) : OnlyPlaces s (s.placeControl k m) := by
  unfold State.placeControl
  split
  · exact refl s
  · split
    · exact pushControl s m
    · split
      · exact loseNotice s _
      · exact refl s

theorem answer (s : State) (dst : Half) (req : Word) (b : Byte) (result : StreamResult) :
    OnlyPlaces s (s.answer dst req b result) := placeControl s _ _

theorem notifyTo (s : State) (dst : Half) (h : Handle) (reason : Reason) : OnlyPlaces s (s.notifyTo dst h reason) := by
  unfold State.notifyTo
  dsimp only
  split
  · exact refl s
  · split
    · exact (setNotice s h false).trans (pushControl _ _)
    · exact loseNotice s h

theorem notify (s : State) (h : Handle) (reason : Reason) : OnlyPlaces s (s.notify h reason) := by
  unfold State.notify
  split
  · exact notifyTo s _ h reason
  · exact refl s

theorem notifyOwner (s : State) (owner : Option Half) (h : Handle) (reason : Reason) :
    OnlyPlaces s (s.notifyOwner owner h reason) := by
  unfold State.notifyOwner
  split
  · exact notifyTo s _ h reason
  · exact refl s

variable (p : OnlyPlaces s t)
include p

theorem now : t.now = s.now := by rw [p.rest]
theorem tables : t.tables = s.tables := by rw [p.rest]
theorem probes : t.probes = s.probes := by rw [p.rest]
theorem windows : t.windows = s.windows := by rw [p.rest]
theorem cadences : t.cadences = s.cadences := by rw [p.rest]
theorem rules : t.rules = s.rules := by rw [p.rest]
theorem floor : t.floor = s.floor := by rw [p.rest]
theorem sending : t.tx.sending = s.tx.sending := by rw [p.rest]

theorem window (h : Handle) : t.window h = s.window h := by
  unfold State.window
  rw [p.windows]

theorem cadence (h : Handle) : t.cadence h = s.cadence h := by
  unfold State.cadence
  rw [p.cadences]

/-- What a field other than the notice-lost flag reads. -/
theorem read {α : Type} (f : Stream → α) (blind : ∀ r lost, f { r with noticeLost := lost } = f r) (h : Handle) :
    f (t.stream h) = f (s.stream h) := by
  obtain ⟨lost, e⟩ := p.stream h
  rw [e, blind]

theorem state (h : Handle) : (t.stream h).state = (s.stream h).state := p.read Stream.state (fun _ _ => rfl) h
theorem owner (h : Handle) : (t.stream h).owner = (s.stream h).owner := p.read Stream.owner (fun _ _ => rfl) h

end OnlyPlaces

/-- Settles O15, by the state of the floor link and of the floor control queue. -/
theorem controlMessagesArePlacedOrDropped : Obligations.ControlMessagesArePlacedOrDropped := by
  refine fun s => ⟨fun m => rfl, fun h reason => ?owner, fun k m => ?place, fun dst h reason => ?notice⟩
  case owner =>
    exact ⟨fun vacant => State.notify_unowned vacant reason, fun dst owned => State.notify_owned owned reason⟩
  case place =>
    refine ⟨fun down => State.placeControl_down down k m, fun room => State.placeControl_placed room k m,
      fun up full => ⟨?_, ?_⟩⟩
    · rintro rfl
      exact State.placeControl_dropped up full none m
    · rintro h rfl
      have dropped := State.placeControl_dropped up full (some h) m
      exact ⟨fun live => dropped.trans (State.loseNotice_live live),
        fun dead => dropped.trans (State.loseNotice_dead dead)⟩
  case notice =>
    exact ⟨fun down => State.notifyTo_down down dst h reason, fun room => State.notifyTo_placed room dst h reason,
      fun up full live => (State.notifyTo_dropped up full dst h reason).trans (State.loseNotice_live live)⟩

end Sys2Proof.Machine
end

section
/-! PROOFS. OPEN: its checks in order, the table of R26, and the record that an accepted OPEN fills. -/

namespace Sys2Proof.Machine

open Sys2Proof

variable {s : State}

/-! ## The fields of an OPEN (R24, R208) -/

theorem choiceOf_eq_some_iff {b : Byte} {c : Choice} : choiceOf b = some c ↔
    (b, c) ∈ [((1 : Byte), Choice.primary), (2, .proxy), (3, .auto)] := by
  unfold choiceOf
  split_ifs with one two three <;> simp_all [eq_comm]

theorem lateOf_eq_some_iff {b : Byte} {l : LatePolicy} : lateOf b = some l ↔
    (b, l) ∈ [((1 : Byte), LatePolicy.skip), (2, .stall)] := by
  unfold lateOf
  split_ifs with one two <;> simp_all [eq_comm]

/-- The depth that a depth field gives: 0 stands for the default. -/
def depthOf (depth : Byte) : Nat := if depth = 0 then 4 else depth.toNat

theorem openFields_eq_some_iff {len : Nat} {clip : Word} {choice depth late : Byte} {c : Choice} {l : LatePolicy}
    {d : Nat} : openFields len clip choice depth late = some (c, l, d) ↔
      len = 16 ∧ clip ≠ 0 ∧ depth.toNat ≤ 12 ∧ choiceOf choice = some c ∧ lateOf late = some l ∧ depthOf depth = d := by
  unfold openFields
  split
  · rename_i ok
    obtain ⟨length, named, deep⟩ := ok
    have deep : depth.toNat ≤ 12 := deep
    have named' : clip ≠ 0#32 := named
    cases choiceOf choice <;> cases lateOf late <;> simp [length, named', deep, depthOf, Config.defaultDepth]
  · rename_i bad
    refine ⟨fun h => by simp at h, fun ⟨length, named, deep, _⟩ => absurd ⟨length, named, deep⟩ bad⟩

/-- The fields of an OPEN pass check 2 of R24. -/
abbrev OpenFieldsOk (len : Nat) (clip : Word) (choice depth late : Byte) : Prop :=
  len = 16 ∧ clip ≠ 0 ∧ depth.toNat ≤ 12 ∧ (choice = 1 ∨ choice = 2 ∨ choice = 3) ∧ (late = 1 ∨ late = 2)

theorem openFields_of_bad {len : Nat} {clip : Word} {choice depth late : Byte}
    (bad : ¬ OpenFieldsOk len clip choice depth late) : openFields len clip choice depth late = none := by
  rw [Option.eq_none_iff_forall_ne_some]
  rintro ⟨c, l, d⟩ read
  obtain ⟨length, named, deep, chosen, lateness, -⟩ := openFields_eq_some_iff.1 read
  rw [choiceOf_eq_some_iff] at chosen
  rw [lateOf_eq_some_iff] at lateness
  refine bad ⟨length, named, deep, ?_, ?_⟩
  · simp at chosen
    tauto
  · simp at lateness
    tauto

theorem openFields_of_ok {len : Nat} {clip : Word} {choice depth late : Byte}
    (ok : OpenFieldsOk len clip choice depth late) :
    ∃ c l, openFields len clip choice depth late = some (c, l, depthOf depth)
      ∧ (choice = 2 → c = .proxy) := by
  obtain ⟨rfl, named, deep, chosen, lateness⟩ := ok
  have ⟨c, hc, proxy⟩ : ∃ c, choiceOf choice = some c ∧ (choice = 2 → c = .proxy) := by
    obtain rfl | rfl | rfl := chosen
    · exact ⟨.primary, rfl, by decide⟩
    · exact ⟨.proxy, rfl, fun _ => rfl⟩
    · exact ⟨.auto, rfl, by decide⟩
  have ⟨l, hl⟩ : ∃ l, lateOf late = some l := by
    obtain rfl | rfl := lateness
    · exact ⟨.skip, rfl⟩
    · exact ⟨.stall, rfl⟩
  exact ⟨c, l, openFields_eq_some_iff.2 ⟨rfl, named, deep, hc, hl, rfl⟩, proxy⟩

/-! ## The lowest CLOSED record (R25) -/

theorem State.closedHandle_of_full (full : ∀ h : Handle, (s.stream h).live = true) : s.closedHandle = none := by
  unfold State.closedHandle
  rw [List.find?_eq_none]
  intro h _
  rw [full h]
  decide

theorem State.closedHandle_of_lowest {h : Handle} (closed : (s.stream h).live = false)
    (below : ∀ j : Handle, j < h → (s.stream j).live = true) : s.closedHandle = some h := by
  unfold State.closedHandle handles
  rw [List.find?_eq_some_iff_getElem]
  refine ⟨by rw [closed]; rfl, h.1, by simp, by simp, fun j lower => ?_⟩
  rw [List.getElem_finRange, below _ lower]
  rfl

theorem State.closedHandle_of_closed (closed : ∃ h : Handle, (s.stream h).live = false) :
    ∃ h : Handle, s.closedHandle = some h := by
  obtain ⟨h, closed⟩ := closed
  rw [← Option.isSome_iff_exists]
  unfold State.closedHandle
  rw [List.find?_isSome]
  exact ⟨h, List.mem_finRange h, by rw [closed]; rfl⟩

/-! ## OPEN check by check (R24) -/

theorem exec_openStream {a : Arrival} (taking : s.Taking .floor a.src) (len : 8 ≤ a.len) (req clip : Word)
    (choice depth late : Byte) : exec (.openStream a req clip choice depth late) s
      = .next (State.settle ((s.stamp a.time).openVerb a req clip choice depth late)) := by
  change execOpenStream a req clip choice depth late s = _
  unfold execOpenStream
  rw [State.arrive_taken taking, State.readable_of_le len]

section Checks

variable {a : Arrival} {req clip : Word} {choice depth late : Byte} {e : StationEntry} {c : Choice} {l : LatePolicy}
  {d : Nat}

theorem State.openVerb_of_absent (absent : s.tables.active.station a.src = none) :
    s.openVerb a req clip choice depth late = s.refuseOpen a.src req .notAdmitted := by
  unfold State.openVerb
  rw [absent]

theorem State.openVerb_of_bad (entry : s.tables.active.station a.src = some e)
    (bad : openFields a.len clip choice depth late = none) :
    s.openVerb a req clip choice depth late = s.refuseOpen a.src req .badField := by
  unfold State.openVerb
  rw [entry, bad]

theorem State.openVerb_of_fields (entry : s.tables.active.station a.src = some e)
    (fields : openFields a.len clip choice depth late = some (c, l, d)) :
    s.openVerb a req clip choice depth late = s.openWith a.src e.limit req clip c l d := by
  unfold State.openVerb
  rw [entry, fields]

variable {src : Half} {limit : Nat} {h : Handle} {k : Clip}

theorem State.openWith_of_limit (full : limit ≤ s.liveCount src) :
    s.openWith src limit req clip c l d = s.refuseOpen src req .stationLimit := by
  unfold State.openWith
  rw [if_pos full]

theorem State.openWith_of_noHandle (room : s.liveCount src < limit) (full : s.closedHandle = none) :
    s.openWith src limit req clip c l d = s.refuseOpen src req .noHandle := by
  unfold State.openWith
  rw [if_neg (Nat.not_le.2 room), full]

theorem State.openWith_of_noClip (room : s.liveCount src < limit) (found : s.closedHandle = some h)
    (absent : s.tables.active.clip clip = none) :
    s.openWith src limit req clip c l d = s.refuseOpen src req .noSuchClip := by
  unfold State.openWith
  rw [if_neg (Nat.not_le.2 room), found, absent]

theorem State.openWith_of_noProxy (room : s.liveCount src < limit) (found : s.closedHandle = some h)
    (entry : s.tables.active.clip clip = some k) (unproxied : c = .proxy ∧ k.proxy = none) :
    s.openWith src limit req clip c l d = s.refuseOpen src req .noProxy := by
  unfold State.openWith
  rw [if_neg (Nat.not_le.2 room), found, entry]
  dsimp only
  rw [if_pos unproxied]

section Placed

variable (room : s.liveCount src < limit) (found : s.closedHandle = some h)
  (entry : s.tables.active.clip clip = some k) (proxied : ¬ (c = .proxy ∧ k.proxy = none))
include room found entry proxied

/-- The last check. -/
theorem State.openWith_of_noBuffer
    (unplaced : s.placement (s.shedsAtOpen src .demote) k c (s.openDepth src d) = none) :
    s.openWith src limit req clip c l d = s.refuseOpen src req .noBuffer := by
  unfold State.openWith
  rw [if_neg (Nat.not_le.2 room), found, entry]
  dsimp only
  rw [if_neg proxied, unplaced]

theorem State.openWith_of_placed {st : StreamState} {q : Rendition}
    (placed : s.placement (s.shedsAtOpen src .demote) k c (s.openDepth src d) = some (st, q)) :
    s.openWith src limit req clip c l d
      = s.openAt src req h k (s.newStream src k (k.edition.getD 0) c l d st q) := by
  unfold State.openWith
  rw [if_neg (Nat.not_le.2 room), found, entry]
  dsimp only
  rw [if_neg proxied, placed]

end Placed

end Checks

/-- Settles O16, check by check. -/
theorem openIsRefusedByTheFirstFailingCheck : Obligations.OpenIsRefusedByTheFirstFailingCheck := by
  intro s a req clip choice depth late taking len refused fields
  let v := s.stamp a.time
  have refuse {r : StreamResult}
      (h : v.openVerb a req clip choice depth late = v.refuseOpen a.src req r) :
      refused r := (exec_openStream taking len ..).trans (settled_congr h)
  refine ⟨fun absent => refuse (State.openVerb_of_absent absent), fun e entry =>
    ⟨fun bad => ?bad, fun ok full => ?limit, fun ok room live => ?handle, fun ok room closed => ?clip⟩⟩
  case bad => exact refuse (State.openVerb_of_bad entry (openFields_of_bad bad))
  case limit =>
    obtain ⟨c, l, read, -⟩ := openFields_of_ok ok
    exact refuse ((State.openVerb_of_fields (s := v) entry read).trans (State.openWith_of_limit full))
  case handle =>
    obtain ⟨c, l, read, -⟩ := openFields_of_ok ok
    have full : v.closedHandle = none := State.closedHandle_of_full live
    exact refuse ((State.openVerb_of_fields (s := v) entry read).trans (State.openWith_of_noHandle room full))
  case clip =>
    obtain ⟨c, l, read, proxy⟩ := openFields_of_ok ok
    obtain ⟨h, found⟩ : ∃ h, v.closedHandle = some h := State.closedHandle_of_closed closed
    refine ⟨fun absent => ?_, fun k present => ⟨fun chosen lacks => ?_, fun c l d read proxied unfit => ?_⟩⟩
    · exact refuse ((State.openVerb_of_fields (s := v) entry read).trans (State.openWith_of_noClip room found absent))
    · exact refuse ((State.openVerb_of_fields (s := v) entry read).trans
        (State.openWith_of_noProxy room found present ⟨proxy chosen, lacks⟩))
    · have unplaced : v.placement (v.shedsAtOpen a.src .demote) k c (v.openDepth a.src d) = .none := unfit
      refine refuse ((State.openVerb_of_fields (s := v) entry read).trans ?_)
      exact State.openWith_of_noBuffer room found present proxied unplaced

/-! ## The table of R26 -/

theorem State.fits_zero_iff (s : State) (n : Nat) :
    s.fits 0 n = true ↔ s.reservationSum + n ≤ s.tables.active.policy.ceiling := by
  simp [State.fits]

/-- A stream in IDLE on a rendition, where its reservation fits (R23). -/
def State.placedIdle (s : State) (d : Nat) (k : Clip) (q : Rendition) : Option (StreamState × Rendition) :=
  if s.fits 0 (d * k.bound q) then some (.idle, q) else none

theorem State.placedIdle_fits {d : Nat} {k : Clip} {q : Rendition}
    (fits : s.reservationSum + d * k.bound q ≤ s.tables.active.policy.ceiling) : s.placedIdle d k q = some (.idle, q) :=
  if_pos ((s.fits_zero_iff _).2 fits)

theorem State.placedIdle_full {d : Nat} {k : Clip} {q : Rendition}
    (full : ¬ s.reservationSum + d * k.bound q ≤ s.tables.active.policy.ceiling) : s.placedIdle d k q = none :=
  if_neg fun h => full ((s.fits_zero_iff _).1 h)

theorem Clip.bound_proxy {k : Clip} {p : RenditionRecord} (proxy : k.proxy = some p) :
    k.bound .proxy = p.pageBound := by
  unfold Clip.bound Clip.record
  rw [proxy]

section Placement

variable {k : Clip} {choice : Choice} {d : Nat} {demote : Bool}

theorem State.placement_primary (h : choice ≠ .proxy ∧ k.proxy = none ∨ choice = .primary ∧ demote = false) :
    s.placement demote k choice d = s.placedIdle d k .primary := by
  unfold State.placement
  cases choice with
  | primary =>
    cases proxy : k.proxy with
    | none => rfl
    | some p =>
      obtain ⟨-, lacks⟩ | ⟨-, rfl⟩ := h
      · rw [proxy] at lacks
        cases lacks
      · rfl
  | proxy =>
    obtain ⟨other, -⟩ | ⟨other, -⟩ := h
    · exact absurd rfl other
    · cases other
  | auto =>
    obtain ⟨-, lacks⟩ | ⟨other, -⟩ := h
    · rw [lacks]
      rfl
    · cases other

theorem State.placement_proxy {p : RenditionRecord} (proxy : k.proxy = some p) (h : choice = .proxy ∨ demote = true) :
    s.placement demote k choice d = s.placedIdle d k .proxy := by
  unfold State.placement
  rw [proxy]
  cases choice with
  | proxy => rfl
  | primary =>
    obtain other | rfl := h
    · cases other
    · rfl
  | auto =>
    obtain other | rfl := h
    · cases other
    · rfl

theorem State.placement_auto {p : RenditionRecord} (proxy : k.proxy = some p) : s.placement false k .auto d
    = if s.fits 0 (d * k.negotiationBound) then some (.negotiating, .primary)
      else (s.placedIdle d k .proxy).or (s.placedIdle d k .primary) := by
  unfold State.placement
  rw [proxy]
  rfl

end Placement

/-- Settles O17, row by row of the table. -/
theorem openPlacementFollowsTheTable : Obligations.OpenPlacementFollowsTheTable := by
  refine ⟨fun clip choice depth late named deep c l chosen lateness => ?fields, fun s demote k choice d => ?table⟩
  case fields =>
    exact openFields_eq_some_iff.2
      ⟨rfl, named, deep, choiceOf_eq_some_iff.2 chosen, lateOf_eq_some_iff.2 lateness, rfl⟩
  case table =>
    intro fits primary
    refine ⟨fun row => ?_, fun p proxy => ⟨fun row => ?_, fun auto undemoted => ?_⟩⟩
    · rw [State.placement_primary row]
      exact ⟨fun ok => State.placedIdle_fits ok, fun full => State.placedIdle_full full⟩
    · rw [State.placement_proxy proxy row, ← Clip.bound_proxy proxy]
      exact ⟨State.placedIdle_fits, State.placedIdle_full⟩
    · subst auto undemoted
      have larger : max k.primary.pageBound p.pageBound = k.negotiationBound := by
        rw [← Clip.bound_proxy proxy]
        rfl
      rw [State.placement_auto proxy, larger, ← Clip.bound_proxy proxy]
      refine ⟨fun ok => if_pos ((s.fits_zero_iff _).2 ok), fun full => ?_⟩
      rw [if_neg fun h => full ((s.fits_zero_iff _).1 h)]
      refine ⟨fun ok => ?_, fun noProxy ok => ?_, fun noProxy noPrimary => ?_⟩
      · rw [State.placedIdle_fits ok]
        rfl
      · rw [State.placedIdle_full noProxy, State.placedIdle_fits ok]
        rfl
      · rw [State.placedIdle_full noProxy, State.placedIdle_full noPrimary]
        rfl

/-! ## The rules that apply at OPEN (R27) -/

/-- A mark is the bit of a rule that applies. -/
theorem foldl_marks (applies : RuleNumber → Bool) (r : RuleNumber) :
    (ruleNumbers.foldl (fun (m : BitVec 4) q => if applies q then m ||| (1#4 <<< q.1) else m) 0).getLsbD r.1
      = applies r := by
  revert applies r
  decide

theorem State.appliesAtOpen_iff {src : Half} {e : StationEntry} (entry : s.tables.active.station src = some e)
    (r : RuleNumber) : s.appliesAtOpen r src = true
      ↔ s.ruleState r = .tripped ∧ (s.rule r).classes.getLsbD e.shedClass = true := by
  unfold State.appliesAtOpen State.inClass
  dsimp only
  rw [entry]
  simp

theorem State.shedsAtOpen_iff {src : Half} {e : StationEntry} (entry : s.tables.active.station src = some e)
    (act : ShedAction) : s.shedsAtOpen src act = true ↔ ∃ r : RuleNumber, s.ruleState r = .tripped
      ∧ (s.rule r).classes.getLsbD e.shedClass = true ∧ (s.rule r).action = act := by
  unfold State.shedsAtOpen
  simp [s.appliesAtOpen_iff entry, mem_ruleNumbers, and_assoc]

/-! ## The record of an accepted OPEN (R25, R29) -/

theorem State.placedIdle_cases {d : Nat} {k : Clip} {x q : Rendition} {st : StreamState}
    (h : s.placedIdle d k x = some (st, q)) :
    st = .idle ∧ s.reservationSum + reservationFor st d q k ≤ s.tables.active.policy.ceiling := by
  unfold State.placedIdle at h
  split at h
  · rename_i fits
    cases h
    exact ⟨rfl, (s.fits_zero_iff _).1 fits⟩
  · cases h

/-- Every row of the table that places a stream places it in IDLE or NEGOTIATING, and has passed the fit test. -/
theorem State.placement_cases (s : State) {demote : Bool} {k : Clip} {c : Choice} {d : Nat} {st : StreamState}
    {q : Rendition} (placed : s.placement demote k c d = some (st, q)) : (st = .idle ∨ st = .negotiating)
      ∧ s.reservationSum + reservationFor st d q k ≤ s.tables.active.policy.ceiling := by
  have idle {x : Rendition} (h : s.placedIdle d k x = some (st, q)) : (st = .idle ∨ st = .negotiating)
      ∧ s.reservationSum + reservationFor st d q k ≤ s.tables.active.policy.ceiling :=
    ⟨.inl (State.placedIdle_cases h).1, (State.placedIdle_cases h).2⟩
  cases proxy : k.proxy with
  | none =>
    by_cases proxied : c = .proxy
    · subst proxied
      unfold State.placement at placed
      rw [proxy] at placed
      cases placed
    · rw [State.placement_primary (.inl ⟨proxied, proxy⟩)] at placed
      exact idle placed
  | some p =>
    by_cases proxied : c = .proxy ∨ demote = true
    · rw [State.placement_proxy proxy proxied] at placed
      exact idle placed
    · obtain ⟨other, undemoted⟩ := not_or.1 proxied
      obtain rfl := eq_false_of_ne_true undemoted
      cases c with
      | proxy => exact absurd rfl other
      | primary =>
        rw [State.placement_primary (.inr ⟨rfl, rfl⟩)] at placed
        exact idle placed
      | auto =>
        rw [State.placement_auto proxy] at placed
        split at placed
        · rename_i fits
          cases placed
          exact ⟨.inr rfl, (s.fits_zero_iff _).1 fits⟩
        · obtain h | ⟨-, h⟩ := Option.or_eq_some_iff.1 placed
          · exact idle h
          · exact idle h

/-- A placement has passed the fit test. -/
theorem State.placement_fits {demote : Bool} {k : Clip} {c : Choice} {d : Nat} {st : StreamState} {q : Rendition}
    (placed : s.placement demote k c d = some (st, q)) :
    s.reservationSum + reservationFor st d q k ≤ s.tables.active.policy.ceiling := (s.placement_cases placed).2

theorem State.openVerb_accepted {a : Arrival} {req clip : Word} {choice depth late : Byte} {e : StationEntry}
    {c : Choice}
    {l : LatePolicy} {d : Nat} {h : Handle} {k : Clip} {st : StreamState} {q : Rendition}
    (entry : s.tables.active.station a.src = some e) (read : openFields a.len clip choice depth late = some (c, l, d))
    (room : s.liveCount a.src < e.limit) (found : s.closedHandle = some h)
    (present : s.tables.active.clip clip = some k) (proxied : ¬ (c = .proxy ∧ k.proxy = none))
    (placed : s.placement (s.shedsAtOpen a.src .demote) k c (s.openDepth a.src d) = some (st, q)) :
    s.openVerb a req clip choice depth late
      = s.openAt a.src req h k (s.newStream a.src k (k.edition.getD 0) c l d st q) := by
  rw [State.openVerb_of_fields entry read, State.openWith_of_placed room found present proxied placed]

theorem State.startProbe_owned {h : Handle} {dst : Half} (owner : (s.stream h).owner = some dst) (k : Clip) :
    s.startProbe h k = State.placeControl
      { s.setStream h { s.stream h with
          probe := some s.probes, probeExpiry := some (s.now + s.tables.active.policy.probeWindow * 1000) } with
        probes := s.probes + 1 } (some h) (.pb dst h s.probes k.primaryRate) := by
  have sent : (s.stream h).owner.getD 0 = dst := by rw [owner, Option.getD_some]
  unfold State.startProbe
  dsimp only
  rw [sent]

/-- Settles O18: the accepted OPEN is `openAt` on the new record, whose PB reads what the SA has left. -/
theorem openFillsTheLowestClosedRecord : Obligations.OpenFillsTheLowestClosedRecord := by
  intro s a req clip choice depth late e c l d h k st q taking entry read room closed below present proxied shallow
    demote eff
  refine ⟨fun r => ?marks, fun act => s.shedsAtOpen_iff entry act, fun placed => ?accepted⟩
  case marks =>
    unfold State.marksAtOpen
    rw [foldl_marks, State.appliesAtOpen_iff entry]
  case accepted =>
    intro pages r u
    let v := s.stamp a.time
    have len : 8 ≤ a.len := by
      rw [(openFields_eq_some_iff.1 read).1]
      decide
    have live : st ≠ .closed ∧ st ≠ .faulted := by
      obtain ⟨rfl | rfl, -⟩ := s.placement_cases placed <;> decide
    have record : v.newStream a.src k (k.edition.getD 0) c l d st q = r := by
      have reservation : reservationFor st (v.openDepth a.src d) q k = eff * pages :=
        reservationFor_live live.1 live.2 _ q k
      unfold State.newStream
      dsimp only
      rw [reservation]
      rfl
    have opened : exec (.openStream a req clip choice depth late) s
        = .next (State.settle (v.openAt a.src req h k r)) := by
      rw [exec_openStream taking len, State.openVerb_accepted (s := v) entry read room
        (State.closedHandle_of_lowest closed below) present proxied placed, record]
    refine ⟨fun settled => ?_, fun negotiating => ?_⟩
    · rw [opened]
      unfold State.openAt
      rw [if_neg settled]
    · intro timer w
      have placed : OnlyPlaces (v.setStream h r) u := .answer ..
      obtain ⟨lost, record⟩ := placed.stream h
      have owner : (u.stream h).owner = some a.src := by
        rw [record, State.stream_setStream]
      have started : u.startProbe h k
          = State.placeControl { w with probes := s.probes + 1 } (some h) (.pb a.src h s.probes k.primaryRate) := by
        rw [State.startProbe_owned owner, placed.probes, placed.now, placed.tables]
        rfl
      rw [opened, ← started]
      unfold State.openAt
      rw [if_pos negotiating]

end Sys2Proof.Machine
end

section
/-! PROOFS. What the operations on one stream leave of the others, what the end of an event leaves of the records while
no rule is ARMED, and what follows: OPEN keeps the reservation sum within the ceiling, and a message from a station
reaches no stream of another. -/

namespace Sys2Proof.Machine

open Sys2Proof

variable {s t u : State}

/-! ## The records at the end of an event -/

/-- `t` follows from `s` without a change of a stream record or of a rule's state. -/
structure SameRecords (s t : State) : Prop where
  streams : t.streams = s.streams
  rules   : t.rules = s.rules

namespace SameRecords

theorem refl (s : State) : SameRecords s s := ⟨rfl, rfl⟩

theorem trans (p : SameRecords s t) (q : SameRecords t u) : SameRecords s u :=
  ⟨q.streams.trans p.streams, q.rules.trans p.rules⟩

theorem noneArmed (p : SameRecords s t) (unarmed : s.NoneArmed) : t.NoneArmed := fun r => by
  unfold State.ruleState
  rw [p.rules]
  exact unarmed r

theorem stream (p : SameRecords s t) (h : Handle) : t.stream h = s.stream h := by
  unfold State.stream
  rw [p.streams]

theorem joinGrant (s : State) : SameRecords s s.joinGrant := by
  unfold State.joinGrant
  split
  · split <;> exact ⟨rfl, rfl⟩
  · exact refl s

theorem joinAnswer (s : State) : SameRecords s s.joinAnswer := by
  unfold State.joinAnswer
  split
  · split <;> exact ⟨rfl, rfl⟩
  · exact refl s

theorem handOver (s : State) : SameRecords s s.handOver := by
  unfold State.handOver
  split
  · exact refl s
  · split <;> exact ⟨rfl, rfl⟩

theorem joins (s : State) : SameRecords s s.joins := ((joinGrant s).trans (joinAnswer _)).trans (handOver _)

theorem startForwarded {turn : ArrayTurn} (e : s.startForwarded turn = some u) : SameRecords s u := by
  unfold State.startForwarded at e
  split at e
  · cases e
  · cases e
    exact ⟨rfl, rfl⟩

/-- A read is issued with a sample of TAGS, which trips nothing while no rule is ARMED. -/
theorem fetchTurn (unarmed : s.NoneArmed) {br : OwnRead} (e : s.fetchTurn = some (br, u)) : SameRecords s u := by
  have sampled (q : State) (p : SameRecords s q) : SameRecords s q.sampleTags := by
    rw [State.sampleTags_of_noneArmed (p.noneArmed unarmed)]
    exact ⟨p.streams, p.rules⟩
  unfold State.fetchTurn State.issueTurn at e
  split at e
  · split at e
    · split at e
      · split at e
        · cases e
        · have last := congrArg Prod.snd (Option.some.inj e)
          dsimp only at last
          rw [← last]
          exact sampled _ ⟨rfl, rfl⟩
      · cases e
    · cases e
  · split at e
    · cases e
    · split at e
      · cases e
      · split at e
        · cases e
        · have last := congrArg Prod.snd (Option.some.inj e)
          dsimp only at last
          rw [← last]
          exact ⟨rfl, rfl⟩

theorem startOwn (unarmed : s.NoneArmed) {turn : ArrayTurn} (e : s.startOwn turn = some u) : SameRecords s u := by
  unfold State.startOwn at e
  split at e
  · split at e
    · cases e
    · rename_i turned
      cases e
      exact (fetchTurn unarmed turned).trans ⟨rfl, rfl⟩
  · cases e

theorem startRead (unarmed : s.NoneArmed) (e : s.startRead = some u) : SameRecords s u := by
  unfold State.startRead at e
  split at e
  · obtain own | ⟨-, forwarded⟩ := Option.or_eq_some_iff.1 e
    · exact startOwn unarmed own
    · exact startForwarded forwarded
  · obtain forwarded | ⟨-, own⟩ := Option.or_eq_some_iff.1 e
    · exact startForwarded forwarded
    · exact startOwn unarmed own

theorem arrayChoose (unarmed : s.NoneArmed) : SameRecords s s.arrayChoose := by
  unfold State.arrayChoose
  split
  · split
    · exact ⟨rfl, rfl⟩
    · cases e : s.startRead with
      | none => exact refl s
      | some u => exact startRead unarmed e
  · exact refl s

theorem startFrameData {turn : FloorTurn} (e : s.startFrameData turn = some u) : SameRecords s u := by
  unfold State.startFrameData at e
  split at e
  · split at e
    · cases e
      exact ⟨rfl, rfl⟩
    · cases e
  · split at e
    · cases e
    · cases e
      exact ⟨rfl, rfl⟩

theorem startBlockData {turn : FloorTurn} (e : s.startBlockData turn = some u) : SameRecords s u := by
  unfold State.startBlockData at e
  split at e
  · cases e
  · split at e
    · cases e
    · cases e
      exact ⟨rfl, rfl⟩
  · split at e
    · cases e
    · split at e
      · cases e
      · cases e
        exact ⟨rfl, rfl⟩

theorem startData (e : s.startData = some u) : SameRecords s u := by
  unfold State.startData at e
  split at e
  · obtain frame | ⟨-, block⟩ := Option.or_eq_some_iff.1 e
    · exact startFrameData frame
    · exact startBlockData block
  · obtain block | ⟨-, frame⟩ := Option.or_eq_some_iff.1 e
    · exact startBlockData block
    · exact startFrameData frame

theorem floorChoose (s : State) : SameRecords s s.floorChoose := by
  unfold State.floorChoose
  split
  · split
    · exact ⟨rfl, rfl⟩
    · cases e : s.startData with
      | none => exact refl s
      | some u => exact startData e
  · exact refl s

theorem settle (unarmed : s.NoneArmed) : SameRecords s s.settle := by
  have joined := joins s
  have chosen := joined.trans (arrayChoose (joined.noneArmed unarmed))
  exact (chosen.trans (joins _)).trans (floorChoose _)

end SameRecords

/-! ## The operations on one stream -/

/-- `t` follows from `s` by operations on the stream of a handle: no other record changes, nor the marks of this one,
nor any rule's state, nor the management responder. -/
structure ActsOn (h : Handle) (s t : State) : Prop where
  others    : ∀ j : Handle, j ≠ h → t.stream j = s.stream j
  marks     : (t.stream h).marks = (s.stream h).marks
  rules     : t.rules = s.rules
  responder : t.responder = s.responder

namespace ActsOn

variable {h : Handle}

theorem refl (s : State) : ActsOn h s s := ⟨fun _ _ => rfl, rfl, rfl, rfl⟩

theorem trans (a : ActsOn h s t) (b : ActsOn h t u) : ActsOn h s u :=
  ⟨fun j e => (b.others j e).trans (a.others j e), b.marks.trans a.marks, b.rules.trans a.rules,
    b.responder.trans a.responder⟩

/-- Operations on windows, spans and fetch records change no record. -/
theorem quiet (a : ActsOn h s t) (q : Quiet t u) : ActsOn h s u :=
  a.trans ⟨fun j _ => q.stream j, by rw [q.stream], q.rules, q.responder⟩

theorem edit (a : ActsOn h s t) {r : Stream} (marks : r.marks = (t.stream h).marks) : ActsOn h s (t.setStream h r) :=
  a.trans ⟨fun j e => t.stream_setStream_of_ne (Ne.symm e) r, by rw [State.stream_setStream, marks], rfl, rfl⟩

theorem setCadence (a : ActsOn h s t) (c : Cadence) : ActsOn h s (t.setCadence h c) := ⟨a.1, a.2, a.3, a.4⟩
theorem stopCadence (a : ActsOn h s t) : ActsOn h s (t.stopCadence h) := ⟨a.1, a.2, a.3, a.4⟩
theorem bumpIndex (a : ActsOn h s t) : ActsOn h s (t.bumpIndex h) := ⟨a.1, a.2, a.3, a.4⟩
theorem pushControl (a : ActsOn h s t) (m : FloorControl) : ActsOn h s (t.pushControl m) := ⟨a.1, a.2, a.3, a.4⟩
theorem reserve (a : ActsOn h s t) : ActsOn h s (t.reserve h) := a.edit rfl
theorem moveTo (a : ActsOn h s t) (st : StreamState) : ActsOn h s (t.moveTo h st) :=
  (a.edit (r := { t.stream h with state := st, pauseReason := none }) rfl).stopCadence

theorem loseNotice (a : ActsOn h s t) : ActsOn h s (t.loseNotice h) := by
  unfold State.loseNotice
  split
  · exact a.edit rfl
  · exact a

/-- A message that concerns the stream, or no stream. -/
theorem placeControl (a : ActsOn h s t) {k : Option Handle} (m : FloorControl) (own : k = none ∨ k = some h) :
    ActsOn h s (t.placeControl k m) := by
  unfold State.placeControl
  split
  · exact a
  · split
    · exact a.pushControl m
    · obtain rfl | rfl := own
      · exact a
      · exact a.loseNotice

theorem answer (a : ActsOn h s t) {b : Byte} (named : handleOf b = some h) (dst : Half) (req : Word)
    (result : StreamResult) : ActsOn h s (t.answer dst req b result) := a.placeControl _ (.inr named)

theorem notifyTo (a : ActsOn h s t) (dst : Half) (reason : Reason) : ActsOn h s (t.notifyTo dst h reason) := by
  unfold State.notifyTo
  dsimp only
  split
  · exact a
  · split
    · exact (a.edit (r := { t.stream h with noticeLost := false }) rfl).pushControl _
    · exact a.loseNotice

theorem notify (a : ActsOn h s t) (reason : Reason) : ActsOn h s (t.notify h reason) := by
  unfold State.notify
  split
  · exact a.notifyTo _ reason
  · exact a

theorem notifyOwner (a : ActsOn h s t) (owner : Option Half) (reason : Reason) :
    ActsOn h s (t.notifyOwner owner h reason) := by
  unfold State.notifyOwner
  split
  · exact a.notifyTo _ reason
  · exact a

theorem pauseFor (a : ActsOn h s t) (why : PauseReason) (reason : Reason) : ActsOn h s (t.pauseFor h why reason) :=
  ((a.edit (r := { t.stream h with state := .paused, pauseReason := some why }) rfl).stopCadence).notify reason

theorem takeAnchor (a : ActsOn h s t) (anchor : Nat) : ActsOn h s (t.takeAnchor h anchor) :=
  (a.setCadence _).quiet ((Quiet.refl _).recomputeDeadlines h)

theorem endOfClip (a : ActsOn h s t) : ActsOn h s (t.endOfClip h) :=
  (((a.edit (r := { t.stream h with position := t.lastFrame (t.stream h) }) rfl).moveTo .idle).quiet
    (((Quiet.refl _).detachWindow h).detachSending h)).notify .ended

theorem advancePosition (a : ActsOn h s t) : ActsOn h s (t.advancePosition h) := by
  rw [State.advancePosition_eq]
  exact a.edit rfl

theorem startFrame (a : ActsOn h s t) (x : Slot) : ActsOn h s (t.startFrame h x) :=
  have q := ((Quiet.refl t).setWindow h
    { t.window h with slots := (t.window h).slots.filter (fun y => y.serial != x.serial)
                      sending := (t.window h).sending ++ ((t.window h).slots.filter
                        (fun y => y.serial == x.serial)).map (fun y => { y with state := .sending }) }).mapEntries
    h x.serial (fun r => { r with sending := true }) x.pages
  ⟨(a.quiet q).1, (a.quiet q).2, (a.quiet q).3, (a.quiet q).4⟩

theorem deliverSent (a : ActsOn h s t) (x : Slot) : ActsOn h s (t.deliverSent h x) := by
  have started := ((a.edit (r := { t.stream h with credit := (t.stream h).credit - 1 }) rfl).startFrame x).bumpIndex
  unfold State.deliverSent
  dsimp only
  apply advancePosition
  apply edit started
  rfl

theorem starveCheck (a : ActsOn h s t) : ActsOn h s (t.starveCheck h) := by
  unfold State.starveCheck
  dsimp only
  split
  · exact a.pauseFor ..
  · exact a

theorem deliverGap (a : ActsOn h s t) (x : Slot) (cause : GapCause) : ActsOn h s (t.deliverGap h x cause) := by
  have counted : ActsOn h s ((t.bumpIndex h).setStream h ((t.bumpIndex h).stream h).countGap) := a.bumpIndex.edit rfl
  have gapped (m : FloorControl) := (((counted.placeControl m (k := some h) (.inr rfl)).quiet
    ((Quiet.refl _).detachSlot h x.serial)).advancePosition).quiet ((Quiet.refl _).topUp h)
  unfold State.deliverGap
  dsimp only
  split
  · exact (gapped _).endOfClip
  · exact (gapped _).starveCheck

theorem decideDue (a : ActsOn h s t) : ActsOn h s (t.decideDue h) := by
  unfold State.decideDue
  split
  · exact a.setCadence _
  · exact a.deliverSent _
  · exact a.deliverGap _ _

theorem settleWait (a : ActsOn h s t) : ActsOn h s (t.settleWait h) := by
  unfold State.settleWait
  split
  · split
    · exact a
    · exact (a.takeAnchor _).deliverSent _
    · exact (a.takeAnchor _).deliverGap _ _
  · exact a

theorem enterPlaying (a : ActsOn h s t) : ActsOn h s (t.enterPlaying h) := by
  unfold State.enterPlaying
  dsimp only
  split
  · split
    · exact a
    · exact a.pauseFor ..
  · have playing : ActsOn h s (t.setStream h { t.stream h with state := .playing, pauseReason := none, gaps := 0 }) :=
      a.edit rfl
    exact (((playing.setCadence _).takeAnchor _).notify _).decideDue

theorem reportPriming (a : ActsOn h s t) : ActsOn h s (t.reportPriming h) := by
  have cleared : ActsOn h s (t.setStream h { t.stream h with autoplay := false }) := a.edit rfl
  unfold State.reportPriming State.completePriming
  dsimp only
  split
  · split
    · exact cleared.enterPlaying
    · exact (cleared.moveTo _).notify _
  · exact a

theorem windowChanged (a : ActsOn h s t) : ActsOn h s (t.windowChanged h) := by
  unfold State.windowChanged
  split
  · exact a.reportPriming
  · exact a.settleWait

theorem endNegotiation (a : ActsOn h s t) (q : Rendition) (reason : Reason) :
    ActsOn h s (t.endNegotiation h q reason) :=
  (((a.edit (r := { t.stream h with rendition := q, probe := none, probeExpiry := none }) rfl).moveTo
    .idle).reserve).notify reason

/-! The shed actions (R171 to R173). -/

theorem demote (a : ActsOn h s t) : ActsOn h s (t.demote h) := by
  unfold State.demote
  dsimp only
  split
  · exact a
  · split
    · exact a
    · split
      · exact (a.edit (r := { t.stream h with demoted := true }) rfl).endNegotiation _ _
      · split
        · exact a
        · have lighter (n : Nat) : ActsOn h s (t.setStream h { t.stream h with
              rendition := .proxy, reservation := n, demoted := true }) := a.edit rfl
          exact (((lighter _).quiet ((Quiet.refl _).rebuild h)).notify _).windowChanged

theorem shallow (a : ActsOn h s t) : ActsOn h s (t.shallow h) := by
  unfold State.shallow
  dsimp only
  split
  · exact a
  · have halved (n : Nat) : ActsOn h s (t.setStream h { t.stream h with effDepth := n }) := a.edit rfl
    exact ((((halved _).reserve).quiet ((Quiet.refl _).reduceWindow h)).notify _).reportPriming

theorem shedPause (a : ActsOn h s t) : ActsOn h s (t.shedPause h) := by
  unfold State.shedPause
  split
  · exact a.pauseFor ..
  · exact (a.edit (r := { t.stream h with autoplay := false }) rfl).pauseFor ..
  · exact a

theorem shedAct (a : ActsOn h s t) (act : ShedAction) : ActsOn h s (t.shedAct act h) := by
  cases act with
  | demote => exact a.demote
  | shallow => exact a.shallow
  | pause => exact a.shedPause

/-! The station verbs on an open stream (R34 to R37) and a grant of credit (R49). -/

theorem enterPriming (a : ActsOn h s t) (autoplay : Bool) : ActsOn h s (t.enterPriming h autoplay) := by
  have primed := (a.edit (r := { t.stream h with autoplay := autoplay }) rfl).moveTo .priming
  unfold State.enterPriming
  dsimp only
  split
  · exact primed.quiet ((Quiet.refl _).build h)
  · exact primed.quiet ((Quiet.refl _).retarget h)

section Verbs

variable {b : Byte} (named : handleOf b = some h) (m : Arrival) (req : Word)
include named

theorem moveStream (a : ActsOn h s t) (frame : Word) (stride : Int) (autoplay : Bool) :
    ActsOn h s (t.moveStream m req b h frame stride autoplay) :=
  (((a.edit (r := { t.stream h with position := frame.toNat, stride := stride }) rfl).enterPriming autoplay).answer
    named ..).reportPriming

theorem playStream (a : ActsOn h s t) : ActsOn h s (t.playStream m req b h) := by
  unfold State.playStream
  split
  · exact ((a.enterPriming true).answer named ..).reportPriming
  · exact (a.edit (r := { t.stream h with autoplay := true }) rfl).answer named ..
  · exact (a.answer named ..).enterPlaying
  · exact (a.answer named ..).enterPlaying
  · exact a.answer named ..

theorem pauseStream (a : ActsOn h s t) : ActsOn h s (t.pauseStream m req b h) := by
  unfold State.pauseStream
  split
  · exact (a.answer named ..).pauseFor ..
  · exact (a.edit (r := { t.stream h with autoplay := false }) rfl).answer named ..
  · split
    · exact a.answer named ..
    · exact (a.answer named ..).pauseFor ..
  · exact a.answer named ..

end Verbs

end ActsOn

/-! ## What leaves every other stream alone -/

/-- `t` follows from `s` by operations on the stream of a handle, the clearing and the filling of its record
among them. -/
structure LeavesOthers (h : Handle) (s t : State) : Prop where
  others : ∀ j : Handle, j ≠ h → t.stream j = s.stream j
  rules  : t.rules = s.rules

namespace LeavesOthers

variable {h : Handle}

theorem refl (s : State) : LeavesOthers h s s := ⟨fun _ _ => rfl, rfl⟩

theorem acts (l : LeavesOthers h s t) (a : ActsOn h t u) : LeavesOthers h s u :=
  ⟨fun j e => (a.others j e).trans (l.others j e), a.rules.trans l.rules⟩

theorem setStream (l : LeavesOthers h s t) (r : Stream) : LeavesOthers h s (t.setStream h r) :=
  ⟨fun j e => (t.stream_setStream_of_ne (Ne.symm e) r).trans (l.others j e), l.rules⟩

theorem quiet (l : LeavesOthers h s t) (q : Quiet t u) : LeavesOthers h s u := l.acts ((ActsOn.refl t).quiet q)

theorem startProbe (l : LeavesOthers h s t) (c : Clip) : LeavesOthers h s (t.startProbe h c) := by
  have timed := l.setStream { t.stream h with
    probe := some t.probes, probeExpiry := some (t.now + t.tables.active.policy.probeWindow * 1000) }
  have drawn : LeavesOthers h s { t.setStream h { t.stream h with
      probe := some t.probes
      probeExpiry := some (t.now + t.tables.active.policy.probeWindow * 1000) } with probes := t.probes + 1 } :=
    ⟨timed.1, timed.2⟩
  exact drawn.acts ((ActsOn.refl _).placeControl _ (.inr rfl))

theorem openAt (s : State) (station : Half) (req : Word) (h : Handle) (c : Clip) (r : Stream) :
    LeavesOthers h s (s.openAt station req h c r) := by
  have named : handleOf (BitVec.ofNat 8 h.1) = some h :=
    handleOf_of_names ((BitVec.toNat_ofNat ..).trans (Nat.mod_eq_of_lt (Nat.lt_trans h.2 (by decide))))
  have filled := ((refl s).setStream (h := h) r).acts ((ActsOn.refl _).answer named station req .accepted)
  unfold State.openAt
  dsimp only
  split
  · exact filled.startProbe c
  · exact filled.acts ((ActsOn.refl _).notify _)

theorem completeClose (l : LeavesOthers h s t) : LeavesOthers h s (t.completeClose h) := by
  have cleared := (l.quiet (((Quiet.refl t).detachWindow h).detachSending h)).setStream
    (((t.detachWindow h).detachSending h).stream h).cleared
  have ended : LeavesOthers h s (((t.detachWindow h).detachSending h).clearRecord h) := ⟨cleared.1, cleared.2⟩
  exact ended.acts ((ActsOn.refl _).notifyOwner _ _)

theorem finishClose (l : LeavesOthers h s t) : LeavesOthers h s (t.finishClose h) := by
  unfold State.finishClose
  split
  · exact l.completeClose
  · exact l

theorem closeStream {b : Byte} (named : handleOf b = some h) (a : Arrival) (req : Word) :
    LeavesOthers h s (s.closeStream a req b h) := by
  have answered (q : State) (l : LeavesOthers h s q) := l.acts ((ActsOn.refl q).answer named a.src req .accepted)
  have begun : LeavesOthers h s (s.beginClose h false) := by
    unfold State.beginClose
    exact ((refl s).setStream _).acts (((ActsOn.refl _).moveTo .closing).quiet ((Quiet.refl _).detachWindow h))
  unfold State.closeStream
  split
  · exact answered _ (refl s)
  · exact (answered _ begun).finishClose

end LeavesOthers

/-! ## The reservation sum (R19, R23) -/

theorem State.reservationSum_eq (s : State) : s.reservationSum = ∑ h : Handle, (s.stream h).reservation := by
  have records : s.streams = Vector.ofFn s.stream := Vector.ext fun i below => by
    rw [Vector.getElem_ofFn]
    rfl
  unfold State.reservationSum
  rw [records, Vector.toList_ofFn, List.map_ofFn, List.sum_ofFn]
  rfl

theorem State.reservationSum_congr (e : ∀ h, (t.stream h).reservation = (s.stream h).reservation) :
    t.reservationSum = s.reservationSum := by
  rw [State.reservationSum_eq, State.reservationSum_eq]
  exact Finset.sum_congr rfl fun h _ => e h

/-- A new record takes its reservation in the place of the old one's. -/
theorem State.reservationSum_setStream (s : State) (h : Handle) (r : Stream) :
    (s.setStream h r).reservationSum + (s.stream h).reservation = s.reservationSum + r.reservation := by
  rw [State.reservationSum_eq, State.reservationSum_eq, ← Finset.add_sum_erase _ _ (Finset.mem_univ h),
    ← Finset.add_sum_erase _ (fun j => (s.stream j).reservation) (Finset.mem_univ h), State.stream_setStream]
  have others : ∑ j ∈ Finset.univ.erase h, ((s.setStream h r).stream j).reservation
      = ∑ j ∈ Finset.univ.erase h, (s.stream j).reservation :=
    Finset.sum_congr rfl fun j e => by rw [s.stream_setStream_of_ne (Finset.ne_of_mem_erase e).symm]
  rw [others]
  omega

theorem OnlyPlaces.reservationSum (p : OnlyPlaces s t) : t.reservationSum = s.reservationSum :=
  State.reservationSum_congr (p.read Stream.reservation fun _ _ => rfl)

theorem SameRecords.reservationSum (p : SameRecords s t) : t.reservationSum = s.reservationSum :=
  State.reservationSum_congr fun h => by rw [p.stream]

/-! ## OPEN and the reservation sum -/

/-- The reservation sum is within the active ceiling (R23). -/
abbrev State.WithinCeiling (s : State) : Prop := s.reservationSum ≤ s.tables.active.policy.ceiling

theorem State.WithinCeiling.of_places (w : s.WithinCeiling) (p : OnlyPlaces s t) : t.WithinCeiling := by
  unfold State.WithinCeiling
  rw [p.reservationSum, p.tables]
  exact w

/-- The start of a negotiation changes no reservation. -/
theorem State.startProbe_reservationSum (s : State) (h : Handle) (c : Clip) :
    (s.startProbe h c).reservationSum = s.reservationSum := by
  have timed := s.reservationSum_setStream h { s.stream h with
    probe := some s.probes, probeExpiry := some (s.now + s.tables.active.policy.probeWindow * 1000) }
  exact (OnlyPlaces.placeControl _ _ _).reservationSum.trans (Nat.add_right_cancel timed)

theorem State.WithinCeiling.openAt (station : Half) (req : Word) (h : Handle) (c : Clip) {r : Stream}
    (fits : s.reservationSum + r.reservation ≤ s.tables.active.policy.ceiling) :
    (s.openAt station req h c r).WithinCeiling := by
  have sum := s.reservationSum_setStream h r
  have filled : (s.setStream h r).WithinCeiling := by
    unfold State.WithinCeiling
    rw [State.setStream_tables]
    omega
  have answered := filled.of_places (.answer _ station req (BitVec.ofNat 8 h.1) .accepted)
  unfold State.openAt
  dsimp only
  split
  · have tables := ((Keeps.refl _).startProbe h c).tables (s := (s.setStream h r).answer station req
      (BitVec.ofNat 8 h.1) .accepted)
    unfold State.WithinCeiling at *
    rw [State.startProbe_reservationSum, tables]
    exact answered
  · exact answered.of_places (.notify _ h _)

theorem State.WithinCeiling.openVerb (w : s.WithinCeiling) (a : Arrival) (req clip : Word) (choice depth late : Byte) :
    (s.openVerb a req clip choice depth late).WithinCeiling := by
  obtain ⟨e, h⟩ | ⟨h, c, ch, l, d, st, q, -, placed, e⟩ := s.openVerb_cases a req clip choice depth late
  · rw [h]
    exact w.of_places (.answer ..)
  · rw [e]
    exact .openAt _ _ _ _ (State.placement_fits placed)

/-- An OPEN reaches a CLOSED record alone. -/
theorem State.openVerb_leaves (s : State) (a : Arrival) (req clip : Word) (choice depth late : Byte) :
    (∃ e, s.openVerb a req clip choice depth late = s.refuseOpen a.src req e)
      ∨ ∃ h, (s.stream h).live = false ∧ LeavesOthers h s (s.openVerb a req clip choice depth late) := by
  obtain e | ⟨h, c, ch, l, d, st, q, found, -, e⟩ := s.openVerb_cases a req clip choice depth late
  · exact .inl e
  · refine .inr ⟨h, by simpa using List.find?_some found, ?_⟩
    rw [e]
    exact .openAt ..

theorem State.openVerb_rules (s : State) (a : Arrival) (req clip : Word) (choice depth late : Byte) :
    (s.openVerb a req clip choice depth late).rules = s.rules := by
  obtain ⟨e, h⟩ | ⟨h, -, leaves⟩ := s.openVerb_leaves a req clip choice depth late
  · rw [h]
    exact (OnlyPlaces.answer ..).rules
  · exact leaves.rules

/-- Settles O19: the fit test bounds the sum with the new reservation, and nothing after it changes one. -/
theorem openKeepsTheSumWithinTheCeiling : Obligations.OpenKeepsTheSumWithinTheCeiling := by
  intro s t a req clip choice depth late idle within e
  obtain rfl := Host.Outcome.next.inj e
  have stamped : (s.stamp a.time).WithinCeiling := within
  have settled (q : State) (w : q.WithinCeiling) (rules : q.rules = s.rules) : q.settle.WithinCeiling := by
    have unarmed : q.NoneArmed := SameRecords.noneArmed (s := { q with rules := s.rules }) ⟨rfl, rules⟩ idle
    unfold State.WithinCeiling
    rw [(SameRecords.settle unarmed).reservationSum, (Steady.settle q).tables]
    exact w
  obtain h | h | ⟨-, h⟩ := s.arrive_cases .floor (.openStream a req clip choice depth late) a.time a.src
    (fun s => s.readable a (fun s => s.openVerb a req clip choice depth late))
  · rw [h]
    exact stamped
  · rw [h]
    exact stamped
  · rw [h]
    unfold State.readable
    split
    · exact settled _ stamped rfl
    · exact settled _ (stamped.openVerb ..) (State.openVerb_rules ..)

/-! ## The streams of other stations -/

/-- `t` follows from `s` without a change of a live stream of another station than `src`, but for its notice-lost
flag. -/
structure Spares (src : Half) (s t : State) : Prop where
  spared : ∀ h : Handle, (s.stream h).live = true → (s.stream h).owner ≠ some src →
    ∃ lost : Bool, t.stream h = { s.stream h with noticeLost := lost }
  rules  : t.rules = s.rules

namespace Spares

variable {src : Half} {h : Handle}

theorem of_places (p : OnlyPlaces s t) : Spares src s t := ⟨fun h _ _ => p.stream h, p.rules⟩

theorem of_leaves (l : LeavesOthers h s t) (own : (s.stream h).live = true → (s.stream h).owner = some src) :
    Spares src s t :=
  ⟨fun j live other => ⟨(s.stream j).noticeLost, l.others j fun e => other (e ▸ own (e ▸ live))⟩, l.rules⟩

theorem of_acts (a : ActsOn h s t) (own : (s.stream h).owner = some src) : Spares src s t :=
  of_leaves ((LeavesOthers.refl s).acts a) fun _ => own

theorem openVerb (s : State) (a : Arrival) (req clip : Word) (choice depth late : Byte) :
    Spares a.src s (s.openVerb a req clip choice depth late) := by
  obtain ⟨e, h⟩ | ⟨h, closed, leaves⟩ := s.openVerb_leaves a req clip choice depth late
  · rw [h]
    exact of_places (.answer ..)
  · exact of_leaves leaves fun live => absurd live (by rw [closed]; decide)

/-- A verb is refused by an SA, or acts on a stream of its source. -/
theorem judge {a : Arrival} {req : Word} {b : Byte} {checked : Except StreamResult Handle} {effect : Handle → State}
    (passed : ∀ h, checked = .ok h → Spares a.src s (effect h)) : Spares a.src s (s.judge a req b checked effect) := by
  unfold State.judge
  split
  · exact of_places (.answer ..)
  · exact passed _ rfl

end Spares

/-! Checks that pass name a stream of the source (R33). -/

section Passed

variable {src : Half} {b : Byte} {lenOk : Bool} {h : Handle}

theorem State.owned_ok (ok : s.owned src b lenOk = .ok h) :
    handleOf b = some h ∧ (s.stream h).live = true ∧ (s.stream h).owner = some src := by
  unfold State.owned at ok
  split at ok
  · split at ok
    · cases ok
    · rename_i named
      split at ok
      · rename_i owner
        cases ok
        exact ⟨named, owner⟩
      · cases ok
  · cases ok

theorem State.firstChecks_ok (ok : s.firstChecks src b lenOk = .ok h) :
    handleOf b = some h ∧ (s.stream h).live = true ∧ (s.stream h).owner = some src := by
  unfold State.firstChecks at ok
  split at ok
  · cases ok
  · rename_i owned
    split at ok
    · cases ok
    · cases ok
      exact State.owned_ok owned

theorem State.admitFrame_ok {strideFits : Bool} {frame : Word}
    (ok : s.admitFrame src b lenOk strideFits frame = .ok h) :
    handleOf b = some h ∧ (s.stream h).live = true ∧ (s.stream h).owner = some src := by
  unfold State.admitFrame at ok
  split at ok
  · cases ok
  · rename_i checked
    split at ok
    · split at ok
      · cases ok
        exact State.firstChecks_ok checked
      · cases ok
    · cases ok

end Passed

namespace Spares

theorem takeProbeReply (s : State) (a : Arrival) (b verdict : Byte) (number : Half) :
    Spares a.src s (s.takeProbeReply a b verdict number) := by
  unfold State.takeProbeReply
  split
  · split
    · rename_i h _ _ _ taken
      have own : (s.stream h).owner = some a.src := by
        have matching := taken.2
        simp only [Stream.probeMatches, Bool.and_eq_true, beq_iff_eq] at matching
        exact matching.1.2
      exact of_acts ((ActsOn.refl s).endNegotiation _ _) own
    · exact of_places (.refl s)
  · exact of_places (.refl s)

theorem takeCredit (s : State) (a : Arrival) (b n : Byte) : Spares a.src s (s.takeCredit a b n) := by
  unfold State.takeCredit
  split
  · exact of_places (.refl s)
  · split
    · rename_i h _ taken
      have own : (s.stream h).owner = some a.src := by
        have takes := taken.2.2
        simp only [Stream.takesCredit, Bool.and_eq_true, beq_iff_eq] at takes
        exact takes.2
      have granted : ActsOn h s (s.addCredit h n.toNat) := (ActsOn.refl s).edit rfl
      exact of_acts granted.settleWait own
    · exact of_places (.refl s)

end Spares

/-- Settles O25: the effect of every message on the floor port spares the streams of other stations, and the end of the
event changes no record. -/
theorem stationsCannotChangeOthersStreams : Obligations.StationsCannotChangeOthersStreams := by
  intro c a s t h arrival unarmed live other e
  suffices spares : ∃ lost : Bool, t.stream h = { s.stream h with noticeLost := lost } by
    obtain ⟨lost, record⟩ := spares
    rw [record]
  have message {effect : State → State} (run : exec c s = .next (s.arrive .floor c a.time a.src effect))
      (spares : Spares a.src (s.stamp a.time) (effect (s.stamp a.time))) :
      ∃ lost : Bool, t.stream h = { s.stream h with noticeLost := lost } := by
    obtain rfl := Host.Outcome.next.inj (run.symm.trans e)
    obtain e | e | ⟨-, e⟩ := s.arrive_cases .floor c a.time a.src effect
    · rw [e]
      exact ⟨_, rfl⟩
    · rw [e]
      exact ⟨_, rfl⟩
    · have unarmed : (effect (s.stamp a.time)).NoneArmed :=
        SameRecords.noneArmed (s := { effect (s.stamp a.time) with rules := s.rules }) ⟨rfl, spares.rules⟩ unarmed
      rw [e, (SameRecords.settle unarmed).stream]
      exact spares.spared h live other
  have request {effect : State → State}
      (run : exec c s = .next (s.arrive .floor c a.time a.src (fun s => s.readable a effect)))
      (spares : Spares a.src (s.stamp a.time) (effect (s.stamp a.time))) :
      ∃ lost : Bool, t.stream h = { s.stream h with noticeLost := lost } := by
    refine message run ?_
    unfold State.readable
    split
    · exact .of_places (.refl _)
    · exact spares
  have acts {k : Handle} {b : Byte} {u : State} (passed : handleOf b = some k ∧ ((s.stamp a.time).stream k).live = true
      ∧ ((s.stamp a.time).stream k).owner = some a.src) (on : handleOf b = some k → ActsOn k (s.stamp a.time) u) :
      Spares a.src (s.stamp a.time) u := .of_acts (on passed.1) passed.2.2
  cases c with
  | openStream m req clip choice depth late =>
    cases arrival
    exact request rfl (.openVerb ..)
  | prime m req b frame stride =>
    cases arrival
    exact request rfl (.judge fun k ok => acts (State.admitFrame_ok ok) fun named =>
      (ActsOn.refl _).moveStream named ..)
  | start m req b frame stride =>
    cases arrival
    exact request rfl (.judge fun k ok => acts (State.admitFrame_ok ok) fun named =>
      (ActsOn.refl _).moveStream named ..)
  | seek m req b frame stride =>
    cases arrival
    exact request rfl (.judge fun k ok => acts (State.admitFrame_ok ok) fun named =>
      (ActsOn.refl _).moveStream named ..)
  | play m req b =>
    cases arrival
    exact request rfl (.judge fun k ok => acts (State.firstChecks_ok ok) fun named =>
      (ActsOn.refl _).playStream named ..)
  | pause m req b =>
    cases arrival
    exact request rfl (.judge fun k ok => acts (State.firstChecks_ok ok) fun named =>
      (ActsOn.refl _).pauseStream named ..)
  | close m req b =>
    cases arrival
    refine request rfl (.judge fun k ok => ?_)
    obtain ⟨named, -, own⟩ := State.owned_ok ok
    exact .of_leaves (.closeStream named ..) fun _ => own
  | unknownStationVerb m req verb b =>
    cases arrival
    exact request rfl (.of_places (.answer ..))
  | probeReply m b verdict number =>
    cases arrival
    exact message rfl (.takeProbeReply ..)
  | creditGrant m b n =>
    cases arrival
    exact message rfl (.takeCredit ..)
  | _ => cases arrival

end Sys2Proof.Machine
end

section
/-! PROOFS. The verbs on an open stream: the checks of R33 in order, and what each verb does to a stream that passes. -/

namespace Sys2Proof.Machine

open Sys2Proof

variable {s : State}

/-! ## The checks of R33 -/

section Checks

variable {src : Half} {b : Byte} {h : Handle}

theorem State.owned_of_length (src : Half) (b : Byte) : s.owned src b false = .error .badField := rfl

theorem State.owned_of_large (large : 127 < b.toNat) (src : Half) (lenOk : Bool) :
    s.owned src b lenOk = .error .badField := by
  unfold State.owned
  rw [handleOf_of_large large]
  cases lenOk <;> rfl

theorem State.owned_of_stranger (named : Names b h)
    (stranger : ¬ ((s.stream h).live = true ∧ (s.stream h).owner = some src)) :
    s.owned src b true = .error .notOwner := by
  unfold State.owned
  rw [handleOf_of_names named]
  dsimp only
  rw [if_pos rfl, if_neg stranger]

theorem State.owned_of_owner (named : Names b h) (live : (s.stream h).live = true)
    (owner : (s.stream h).owner = some src) : s.owned src b true = .ok h := by
  unfold State.owned
  rw [handleOf_of_names named]
  dsimp only
  rw [if_pos rfl, if_pos ⟨live, owner⟩]

theorem Stream.live_of_state {r : Stream} (open_ : r.state ≠ .closed) : r.live = true := by
  unfold Stream.live
  rwa [bne_iff_ne]

theorem State.firstChecks_of_owned {lenOk : Bool} {e : StreamResult} (refused : s.owned src b lenOk = .error e) :
    s.firstChecks src b lenOk = .error e := by
  unfold State.firstChecks
  rw [refused]

theorem State.firstChecks_of_state {lenOk : Bool} {e : StreamResult} (owned : s.owned src b lenOk = .ok h)
    (refused : usable (s.stream h).state = .error e) : s.firstChecks src b lenOk = .error e := by
  unfold State.firstChecks
  rw [owned]
  dsimp only
  rw [refused]

theorem State.firstChecks_of_usable (named : Names b h) (usable : s.Usable src h) :
    s.firstChecks src b true = .ok h := by
  obtain ⟨owner, state⟩ := usable
  have live : (s.stream h).live = true := by
    apply Stream.live_of_state
    obtain e | e | e | e | e := state <;> rw [e] <;> decide
  unfold State.firstChecks
  rw [State.owned_of_owner named live owner]
  dsimp only
  obtain e | e | e | e | e := state <;> rw [e] <;> rfl

variable {lenOk strideFits : Bool} {frame : Word}

theorem State.admitFrame_of_refused {e : StreamResult} (refused : s.firstChecks src b lenOk = .error e) :
    s.admitFrame src b lenOk strideFits frame = .error e := by
  unfold State.admitFrame
  rw [refused]

theorem State.admitFrame_of_stride (passed : s.firstChecks src b lenOk = .ok h) (off : strideFits = false) :
    s.admitFrame src b lenOk strideFits frame = .error .badField := by
  unfold State.admitFrame
  rw [passed, off]
  rfl

theorem State.admitFrame_of_frame (passed : s.firstChecks src b lenOk = .ok h) (fits : strideFits = true)
    (beyond : s.frameCount (s.stream h) ≤ frame.toNat) :
    s.admitFrame src b lenOk strideFits frame = .error .badFrame := by
  unfold State.admitFrame
  rw [passed, fits]
  exact if_neg (Nat.not_lt.2 beyond)

theorem State.admitFrame_of_passed (passed : s.firstChecks src b lenOk = .ok h) (fits : strideFits = true)
    (inside : frame.toNat < s.frameCount (s.stream h)) : s.admitFrame src b lenOk strideFits frame = .ok h := by
  unfold State.admitFrame
  rw [passed, fits]
  exact if_pos inside

end Checks

/-! ## The step field (R33, R208) -/

theorem strideOk_iff (z : Int) : strideOk z = true ↔ z ≠ 0 ∧ -8 ≤ z ∧ z ≤ 8 := by
  simp [strideOk, and_assoc]

theorem strideOk_eq_false_iff (z : Int) : strideOk z = false ↔ z = 0 ∨ z < -8 ∨ 8 < z := by
  rw [← Bool.not_eq_true, strideOk_iff]
  omega

theorem strideOf_eq_zero_iff (stride : Byte) : strideOf stride = 0 ↔ stride = 0 := by
  unfold strideOf
  rw [← BitVec.toInt_inj]
  rfl

/-- A SEEK may leave its step out. -/
theorem seekStep_iff (stride : Byte) : (stride == 0 || strideOk (strideOf stride)) = true
    ↔ -8 ≤ strideOf stride ∧ strideOf stride ≤ 8 := by
  rw [Bool.or_eq_true, beq_iff_eq, ← strideOf_eq_zero_iff, strideOk_iff]
  omega

/-! ## The commands -/

section Commands

variable {a : Arrival} (taking : s.Taking .floor a.src) (len : 8 ≤ a.len) (req : Word) (b : Byte)
include taking len

theorem exec_prime (frame : Word) (stride : Byte) : exec (.prime a req b frame stride) s
    = .next (State.settle ((s.stamp a.time).judge a req b
        ((s.stamp a.time).admitFrame a.src b (a.len == 16) (strideOk (strideOf stride)) frame)
        (fun h => (s.stamp a.time).moveStream a req b h frame (strideOf stride) false))) := by
  change execPrime a req b frame stride s = _
  unfold execPrime
  rw [State.arrive_taken taking, State.readable_of_le len]

theorem exec_start (frame : Word) (stride : Byte) : exec (.start a req b frame stride) s
    = .next (State.settle ((s.stamp a.time).judge a req b
        ((s.stamp a.time).admitFrame a.src b (a.len == 16) (strideOk (strideOf stride)) frame)
        (fun h => (s.stamp a.time).moveStream a req b h frame (strideOf stride) true))) := by
  change execStart a req b frame stride s = _
  unfold execStart
  rw [State.arrive_taken taking, State.readable_of_le len]

theorem exec_seek (frame : Word) (stride : Byte) : exec (.seek a req b frame stride) s
    = .next (State.settle ((s.stamp a.time).judge a req b
        ((s.stamp a.time).admitFrame a.src b (a.len == 16) (stride == 0 || strideOk (strideOf stride)) frame)
        (fun h => (s.stamp a.time).moveStream a req b h frame
          (seekStride ((s.stamp a.time).stream h) (strideOf stride)) (seekAutoplay ((s.stamp a.time).stream h))))) := by
  change execSeek a req b frame stride s = _
  unfold execSeek
  rw [State.arrive_taken taking, State.readable_of_le len]

theorem exec_play : exec (.play a req b) s
    = .next (State.settle ((s.stamp a.time).judge a req b ((s.stamp a.time).firstChecks a.src b (a.len == 8))
        (fun h => (s.stamp a.time).playStream a req b h))) := by
  change execPlay a req b s = _
  unfold execPlay
  rw [State.arrive_taken taking, State.readable_of_le len]

theorem exec_pause : exec (.pause a req b) s
    = .next (State.settle ((s.stamp a.time).judge a req b ((s.stamp a.time).firstChecks a.src b (a.len == 8))
        (fun h => (s.stamp a.time).pauseStream a req b h))) := by
  change execPause a req b s = _
  unfold execPause
  rw [State.arrive_taken taking, State.readable_of_le len]

theorem exec_close : exec (.close a req b) s
    = .next (State.settle ((s.stamp a.time).judge a req b ((s.stamp a.time).owned a.src b (a.len == 8))
        (fun h => (s.stamp a.time).closeStream a req b h))) := by
  change execClose a req b s = _
  unfold execClose
  rw [State.arrive_taken taking, State.readable_of_le len]

/-! A check that fails refuses the verb; one that passes hands the stream to it. -/

/-- The verb is refused with a result (R33). -/
def Refused (s : State) (a : Arrival) (req : Word) (b : Byte) (e : StreamResult) (c : Instr) : Prop :=
  exec c s = .next (State.settle ((s.stamp a.time).answer a.src req b e))

theorem refused_moves {frame : Word} {stride : Byte} {e : StreamResult}
    (refused : ∀ fits, (s.stamp a.time).admitFrame a.src b (a.len == 16) fits frame = .error e) :
    ∀ c ∈ [Instr.prime a req b frame stride, .start a req b frame stride, .seek a req b frame stride],
      Refused s a req b e c := by
  simp only [List.mem_cons, List.not_mem_nil, or_false, forall_eq_or_imp, forall_eq]
  refine ⟨?_, ?_, ?_⟩
  · exact (exec_prime taking len req b frame stride).trans (by rw [refused]; rfl)
  · exact (exec_start taking len req b frame stride).trans (by rw [refused]; rfl)
  · exact (exec_seek taking len req b frame stride).trans (by rw [refused]; rfl)

theorem refused_plain {e : StreamResult}
    (refused : (s.stamp a.time).firstChecks a.src b (a.len == 8) = .error e) :
    ∀ c ∈ [Instr.play a req b, .pause a req b], Refused s a req b e c := by
  simp only [List.mem_cons, List.not_mem_nil, or_false, forall_eq_or_imp, forall_eq]
  refine ⟨?_, ?_⟩
  · exact (exec_play taking len req b).trans (by rw [refused]; rfl)
  · exact (exec_pause taking len req b).trans (by rw [refused]; rfl)

theorem refused_owned {e : StreamResult} (refused : (s.stamp a.time).owned a.src b (a.len == 8) = .error e) :
    ∀ c ∈ [Instr.close a req b, .play a req b, .pause a req b], Refused s a req b e c := by
  rw [List.forall_mem_cons]
  refine ⟨?_, refused_plain taking len req b (State.firstChecks_of_owned refused)⟩
  exact (exec_close taking len req b).trans (by rw [refused]; rfl)

end Commands

/-- Settles O20, check by check. -/
theorem stationVerbsAreRefusedInOrder : Obligations.StationVerbsAreRefusedInOrder := by
  intro s a req b frame stride taking len refused moves plain z
  let v := s.stamp a.time
  have byLength {n : Nat} (off : a.len ≠ n ∨ 127 < b.toNat) : v.owned a.src b (a.len == n) = .error .badField := by
    obtain off | large := off
    · rw [beq_eq_false_iff_ne.2 off]
      rfl
    · exact State.owned_of_large large ..
  refine ⟨fun verb => ?unknown, fun off => ?_, fun off => ?_, fun h named => ⟨fun stranger => ⟨?_, ?_⟩,
    fun owner st e listed state => ?state, fun usable length => ?fields⟩⟩
  case unknown =>
    change execUnknownStationVerb a req verb b s = _
    unfold execUnknownStationVerb
    rw [State.arrive_taken taking, State.readable_of_le len]
  · exact refused_moves taking len req b fun fits =>
      State.admitFrame_of_refused (State.firstChecks_of_owned (byLength off))
  · exact refused_owned taking len req b (byLength off)
  · intro length
    refine refused_moves taking len req b fun fits => State.admitFrame_of_refused (State.firstChecks_of_owned ?_)
    rw [length]
    exact State.owned_of_stranger named stranger
  · intro length
    refine refused_owned taking len req b ?_
    rw [length]
    exact State.owned_of_stranger named stranger
  case state =>
    have open_ : (v.stream h).state ≠ .closed ∧ Machine.usable (v.stream h).state = .error e := by
      have record : (v.stream h).state = st := state
      rw [record]
      simp only [List.mem_cons, Prod.mk.injEq, List.not_mem_nil, or_false] at listed
      obtain ⟨rfl, rfl⟩ | ⟨rfl, rfl⟩ | ⟨rfl, rfl⟩ := listed <;> exact ⟨by decide, rfl⟩
    have checked : v.firstChecks a.src b true = .error e := State.firstChecks_of_state
      (State.owned_of_owner named (Stream.live_of_state open_.1) owner) open_.2
    refine ⟨fun length => refused_moves taking len req b fun fits => State.admitFrame_of_refused ?_,
      fun length => refused_plain taking len req b ?_⟩
    · rw [length]
      exact checked
    · rw [length]
      exact checked
  case fields =>
    have passed : v.firstChecks a.src b (a.len == 16) = .ok h := by
      rw [length]
      exact State.firstChecks_of_usable (s := v) named usable
    have step : strideOf stride = z := rfl
    have prime {e : StreamResult}
        (h : v.admitFrame a.src b (a.len == 16) (strideOk (strideOf stride)) frame = .error e) :
        refused e (.prime a req b frame stride) := (exec_prime taking len req b frame stride).trans (by rw [h]; rfl)
    have start {e : StreamResult}
        (h : v.admitFrame a.src b (a.len == 16) (strideOk (strideOf stride)) frame = .error e) :
        refused e (.start a req b frame stride) := (exec_start taking len req b frame stride).trans (by rw [h]; rfl)
    have seek {e : StreamResult}
        (h : v.admitFrame a.src b (a.len == 16) (stride == 0 || strideOk (strideOf stride)) frame = .error e) :
        refused e (.seek a req b frame stride) := (exec_seek taking len req b frame stride).trans (by rw [h]; rfl)
    have all {e : StreamResult} (x : refused e (.prime a req b frame stride))
        (y : refused e (.start a req b frame stride))
        (w : refused e (.seek a req b frame stride)) : ∀ c ∈ moves, refused e c := by
      simp only [moves, List.mem_cons, List.not_mem_nil, or_false, forall_eq_or_imp, forall_eq]
      exact ⟨x, y, w⟩
    refine ⟨fun off => ?_, fun none => ⟨?_, ?_, fun beyond => ?_⟩, fun low high some beyond => ?_⟩
    · have bad : strideOk (strideOf stride) = false := (strideOk_eq_false_iff _).2 (.inr off)
      have worse : (stride == 0 || strideOk (strideOf stride)) = false := by
        rw [← Bool.not_eq_true, seekStep_iff, step]
        omega
      exact all (prime (State.admitFrame_of_stride passed bad)) (start (State.admitFrame_of_stride passed bad))
        (seek (State.admitFrame_of_stride passed worse))
    · exact prime (State.admitFrame_of_stride passed ((strideOk_eq_false_iff _).2 (.inl none)))
    · exact start (State.admitFrame_of_stride passed ((strideOk_eq_false_iff _).2 (.inl none)))
    · refine seek (State.admitFrame_of_frame passed ?_ beyond)
      rw [seekStep_iff, step]
      omega
    · have good : strideOk (strideOf stride) = true := (strideOk_iff _).2 ⟨some, low, high⟩
      have better : (stride == 0 || strideOk (strideOf stride)) = true := (seekStep_iff _).2 ⟨low, high⟩
      exact all (prime (State.admitFrame_of_frame passed good beyond))
        (start (State.admitFrame_of_frame passed good beyond))
        (seek (State.admitFrame_of_frame passed better beyond))

/-! ## PRIME, START and SEEK (R34, R37) -/

theorem State.enterPriming_eq (s : State) (h : Handle) (autoplay : Bool) : s.enterPriming h autoplay
    = if (s.stream h).state = .idle then
        ((s.setStream h { s.stream h with
          autoplay := autoplay, state := .priming, pauseReason := none }).stopCadence h).build h
      else ((s.setStream h { s.stream h with
          autoplay := autoplay, state := .priming, pauseReason := none }).stopCadence h).retarget h := by
  have moved : (s.setStream h { s.stream h with autoplay := autoplay }).moveTo h .priming
      = (s.setStream h { s.stream h with
          autoplay := autoplay, state := .priming, pauseReason := none }).stopCadence h := by
    unfold State.moveTo
    rw [State.stream_setStream, State.setStream_setStream]
  unfold State.enterPriming
  dsimp only
  rw [moved]

theorem State.moveStream_eq (s : State) (a : Arrival) (req : Word) (b : Byte) (h : Handle) (frame : Word) (z : Int)
    (autoplay : Bool) : s.moveStream a req b h frame z autoplay
      = State.reportPriming (State.answer
          (let u := (s.setStream h { s.stream h with position := frame.toNat, stride := z, autoplay := autoplay,
                                                     state := .priming, pauseReason := none }).stopCadence h
           if (s.stream h).state = .idle then u.build h else u.retarget h) a.src req b .accepted) h := by
  unfold State.moveStream
  dsimp only
  rw [State.enterPriming_eq, State.stream_setStream, State.setStream_setStream]

theorem seekAutoplay_eq (r : Stream) :
    seekAutoplay r = decide (r.state = .playing ∨ r.state = .priming ∧ r.autoplay = true) := by
  unfold seekAutoplay
  cases r.state <;> simp

/-- Settles O21: the checks pass, and the three verbs are one move with their own step and autoplay flag. -/
theorem primeStartAndSeekMoveTheStream : Obligations.PrimeStartAndSeekMoveTheStream := by
  intro s a req b h frame stride taking named usable length inside r z moved
  let v := s.stamp a.time
  have len : 8 ≤ a.len := by omega
  have passed : v.firstChecks a.src b (a.len == 16) = .ok h := by
    rw [length]
    exact State.firstChecks_of_usable (s := v) named usable
  have admitted {fits : Bool} (ok : fits = true) : v.admitFrame a.src b (a.len == 16) fits frame = .ok h :=
    State.admitFrame_of_passed passed ok inside
  have move (z : Int) (autoplay : Bool) : (v.moveStream a req b h frame z autoplay).settle = moved z autoplay :=
    congrArg State.settle (v.moveStream_eq a req b h frame z autoplay)
  refine ⟨fun low high some => ?_, fun low high => ?_⟩
  · have good : strideOk (strideOf stride) = true := (strideOk_iff _).2 ⟨some, low, high⟩
    refine ⟨?_, ?_⟩
    · rw [exec_prime taking len, admitted good, ← move]
      rfl
    · rw [exec_start taking len, admitted good, ← move]
      rfl
  · rw [exec_seek taking len, admitted ((seekStep_iff stride).2 ⟨low, high⟩), ← seekAutoplay_eq, ← move]
    rfl

/-! ## PLAY (R35, R40) -/

theorem State.markedWith_congr {t : State} (tables : t.tables = s.tables) {x y : Stream} (marks : x.marks = y.marks)
    (act : ShedAction) : t.markedWith x act = s.markedWith y act := by
  unfold State.markedWith State.rule Stream.marked
  rw [tables, marks]

theorem State.boundRate_congr {t : State} (tables : t.tables = s.tables) {x y : Stream}
    (binding : x.binding = y.binding) :
    t.boundRate x = s.boundRate y := by
  unfold State.boundRate State.boundClip
  rw [tables, binding]

/-- A stream enters PLAYING: index 0 is due now, and is decided after the SN (R40, R143). -/
theorem State.enterPlaying_free {h : Handle} (free : s.markedWith (s.stream h) .pause = false) : s.enterPlaying h
    = State.decideDue (State.notify (State.recomputeDeadlines
        ((s.setStream h { s.stream h with state := .playing, pauseReason := none, gaps := 0 }).setCadence h
          { anchor := s.now, index := 0, nextDue := some s.now, headWait := false
            rate := s.boundRate (s.stream h) }) h) h .playing) h := by
  have rate : (s.setStream h { s.stream h with state := .playing, pauseReason := none, gaps := 0 }).boundRate
      { s.stream h with state := .playing, pauseReason := none, gaps := 0 } = s.boundRate (s.stream h) := rfl
  unfold State.enterPlaying
  dsimp only
  rw [free, if_neg Bool.false_ne_true, State.stream_setStream, rate, State.takeAnchor_eq, State.cadence_setCadence,
    State.setCadence_setCadence]
  rfl

/-- A PAUSE mark holds a stream in PAUSED with reason SHED (R40). -/
theorem State.enterPlaying_held {h : Handle} (held : s.markedWith (s.stream h) .pause = true) : s.enterPlaying h
    = if (s.stream h).state = .paused ∧ (s.stream h).pauseReason = some .shed then s
      else s.pauseFor h .shed .pausedShed := by
  unfold State.enterPlaying
  dsimp only
  rw [if_pos held]

section Play

variable {a : Arrival} {req : Word} {b : Byte} {h : Handle}

theorem exec_play_usable (taking : s.Taking .floor a.src) (named : Names b h) (usable : s.Usable a.src h)
    (length : a.len = 8) : exec (.play a req b) s = .next (State.settle ((s.stamp a.time).playStream a req b h)) := by
  rw [exec_play taking (by omega), length]
  have passed : (s.stamp a.time).firstChecks a.src b (8 == 8) = .ok h :=
    State.firstChecks_of_usable (s := s.stamp a.time) named usable
  rw [passed]
  rfl

theorem exec_pause_usable (taking : s.Taking .floor a.src) (named : Names b h) (usable : s.Usable a.src h)
    (length : a.len = 8) : exec (.pause a req b) s = .next (State.settle ((s.stamp a.time).pauseStream a req b h)) := by
  rw [exec_pause taking (by omega), length]
  have passed : (s.stamp a.time).firstChecks a.src b (8 == 8) = .ok h :=
    State.firstChecks_of_usable (s := s.stamp a.time) named usable
  rw [passed]
  rfl

theorem State.playStream_idle (state : (s.stream h).state = .idle) : s.playStream a req b h
    = ((s.enterPriming h true).answer a.src req b .accepted).reportPriming h := by
  unfold State.playStream
  rw [state]

theorem State.playStream_priming (state : (s.stream h).state = .priming) : s.playStream a req b h
    = (s.setStream h { s.stream h with autoplay := true }).answer a.src req b .accepted := by
  unfold State.playStream
  rw [state]

theorem State.playStream_playing (state : (s.stream h).state = .playing) :
    s.playStream a req b h = s.answer a.src req b .accepted := by
  unfold State.playStream
  rw [state]

theorem State.playStream_ready (state : (s.stream h).state = .primed ∨ (s.stream h).state = .paused) :
    s.playStream a req b h = (s.answer a.src req b .accepted).enterPlaying h := by
  unfold State.playStream
  obtain state | state := state <;> rw [state]

end Play

/-- Settles O22, state by state. -/
theorem playActsByState : Obligations.PlayActsByState := by
  intro s a req b h taking named usable length r v ok
  have play := exec_play_usable (req := req) taking named usable length
  refine ⟨fun idle => ?_, fun priming => ?_, fun playing => ?_, fun ready => ?_⟩
  · intro u
    rw [play, State.playStream_idle (s := s.stamp a.time) idle, State.enterPriming_eq,
      if_pos (show ((s.stamp a.time).stream h).state = .idle from idle)]
    rfl
  · rw [play, State.playStream_priming (s := s.stamp a.time) priming]
    rfl
  · rw [play, State.playStream_playing (s := s.stamp a.time) playing]
  · have played : exec (.play a req b) s = .next (State.settle (ok.enterPlaying h)) := by
      rw [play, State.playStream_ready (s := s.stamp a.time) ready]
    have placed : OnlyPlaces v ok := .answer ..
    have marks : (ok.stream h).marks = r.marks := placed.read Stream.marks (fun _ _ => rfl) h
    have reason : (ok.stream h).pauseReason = r.pauseReason := placed.read Stream.pauseReason (fun _ _ => rfl) h
    have binding : (ok.stream h).binding = r.binding := placed.read Stream.binding (fun _ _ => rfl) h
    have state : (ok.stream h).state = r.state := placed.state h
    have held : ok.markedWith (ok.stream h) .pause = s.markedWith r .pause :=
      State.markedWith_congr placed.tables marks .pause
    refine ⟨fun free => ?_, fun marked => ⟨fun shed => ?_, fun other => ?_⟩⟩
    · intro p c
      rw [played, State.enterPlaying_free (held.trans free), placed.now,
        State.boundRate_congr (s := s) placed.tables binding]
    · rw [played, State.enterPlaying_held (held.trans marked), state, reason, if_pos shed]
    · rw [played, State.enterPlaying_held (held.trans marked), state, reason, if_neg other]
      rfl

/-! ## PAUSE (R36) -/

/-- Settles O23, state by state. -/
theorem pauseActsByState : Obligations.PauseActsByState := by
  intro s a req b h taking named usable length r v ok
  have pause := exec_pause_usable (req := req) taking named usable length
  refine ⟨fun other => ?_, fun priming => ?_, fun still => ?_⟩
  · intro p
    have paused : v.pauseStream a req b h = ok.pauseFor h .station .pausedStation := by
      unfold State.pauseStream
      obtain playing | ⟨held, reason⟩ := other
      · have state : (v.stream h).state = .playing := playing
        rw [state]
      · have state : (v.stream h).state = .paused := held
        rw [state]
        exact if_neg reason
    rw [pause, paused]
    rfl
  · have state : (v.stream h).state = .priming := priming
    have primed : v.pauseStream a req b h
        = (v.setStream h { r with autoplay := false }).answer a.src req b .accepted := by
      unfold State.pauseStream
      rw [state]
      rfl
    rw [pause, primed]
  · have unmoved : v.pauseStream a req b h = ok := by
      unfold State.pauseStream
      obtain idle | primed | ⟨paused, reason⟩ := still
      · have state : (v.stream h).state = .idle := idle
        rw [state]
      · have state : (v.stream h).state = .primed := primed
        rw [state]
      · have state : (v.stream h).state = .paused := paused
        rw [state]
        exact if_pos reason
    rw [pause, unmoved]

end Sys2Proof.Machine
end

section
/-! PROOFS. CLOSE and the end of a close, the end of a negotiation, and grants of credit. -/

namespace Sys2Proof.Machine

open Sys2Proof

variable {s : State} {h : Handle}

/-! ## The end of a close (R20, R43) -/

theorem State.completeClose_owned {o : Half} (owner : (s.stream h).owner = some o) : s.completeClose h
    = (((s.detachWindow h).detachSending h).clearRecord h).notifyTo o h
        (if (s.stream h).withdrawn = true then .withdrawn else .closed) := by
  unfold State.completeClose State.notifyOwner
  dsimp only
  rw [owner]

theorem State.finishClose_done (closing : (s.stream h).state = .closing) (sent : (s.window h).sending = []) :
    s.finishClose h = s.completeClose h := by
  unfold State.finishClose
  rw [sent]
  exact if_pos ⟨closing, rfl⟩

theorem State.finishClose_sending (sending : (s.window h).sending ≠ []) : s.finishClose h = s := by
  unfold State.finishClose
  exact if_neg fun both => sending (List.isEmpty_iff.1 both.2)

theorem State.finishClose_other (other : (s.stream h).state ≠ .closing) : s.finishClose h = s := by
  unfold State.finishClose
  exact if_neg fun both => other both.1

/-- A close begins: the record, the cadence and the window. -/
theorem State.beginClose_eq (s : State) (h : Handle) (withdrawn : Bool) : s.beginClose h withdrawn
    = ((s.setStream h { s.stream h with
        autoplay := false, probe := none, probeExpiry := none, withdrawn := withdrawn, state := .closing
        pauseReason := none }).stopCadence h).detachWindow h := by
  unfold State.beginClose State.moveTo
  dsimp only
  rw [State.stream_setStream, State.setStream_setStream]

/-- The record of a closing stream. -/
theorem State.stream_beginClose (s : State) (h : Handle) (withdrawn : Bool) : (s.beginClose h withdrawn).stream h
    = { s.stream h with autoplay := false, probe := none, probeExpiry := none, withdrawn := withdrawn
                        state := .closing, pauseReason := none } := by
  rw [State.beginClose_eq, ((Quiet.refl _).detachWindow h).stream]
  exact s.stream_setStream h _

theorem exec_close_owned {a : Arrival} {b : Byte} (taking : s.Taking .floor a.src) (named : Names b h)
    (live : (s.stream h).live = true) (owner : (s.stream h).owner = some a.src) (length : a.len = 8) (req : Word) :
    exec (.close a req b) s = .next (State.settle ((s.stamp a.time).closeStream a req b h)) := by
  rw [exec_close taking (by omega), length]
  have passed : (s.stamp a.time).owned a.src b (8 == 8) = .ok h :=
    State.owned_of_owner (s := s.stamp a.time) named live owner
  rw [passed]
  rfl

/-- Settles O24: the end of a close, the verb, and the cleared record. -/
theorem closeEndsTheStream : Obligations.CloseEndsTheStream := by
  refine ⟨fun s h => ?completion, fun s a req b h taking named live owner length => ?verb, fun s h => ?cleared⟩
  case completion =>
    refine ⟨rfl, fun o owner => State.completeClose_owned owner, State.finishClose_done, fun still => ?_⟩
    obtain other | sending := still
    · exact State.finishClose_other other
    · exact State.finishClose_sending sending
  case verb =>
    intro r v
    have close := exec_close_owned taking named live owner length req
    refine ⟨fun closing => ?_, fun open_ => ?_⟩
    · rw [close]
      unfold State.closeStream
      rw [if_pos (show ((s.stamp a.time).stream h).state = .closing from closing)]
    · intro u w
      have begun : v.beginClose h false = u.detachWindow h := v.beginClose_eq h false
      have closed : exec (.close a req b) s = .next (State.settle (w.finishClose h)) := by
        rw [close]
        unfold State.closeStream
        rw [if_neg (show ¬ ((s.stamp a.time).stream h).state = .closing from open_), begun]
      have placed : OnlyPlaces (v.beginClose h false) w := begun ▸ .answer ..
      have state : (w.stream h).state = .closing := by rw [placed.state, State.stream_beginClose]
      have own : (w.stream h).owner = some a.src := by
        rw [placed.owner, State.stream_beginClose]
        exact owner
      have kept : (w.stream h).withdrawn = false := by
        rw [placed.read Stream.withdrawn fun _ _ => rfl, State.stream_beginClose]
      refine ⟨fun sending => ?_, fun sent => ?_⟩
      · rw [closed, State.finishClose_sending sending]
      · rw [closed, State.finishClose_done state sent, State.completeClose_owned own, kept]
        rfl
  case cleared =>
    intro r t
    have record : t.stream h = r.cleared := s.stream_setStream h _
    have cadence : t.cadence h = (s.cadence h).stop := (s.setStream h r.cleared).cadence_setCadence h _
    have window : t.window h = { s.window h with cursor := none } :=
      ((s.setStream h r.cleared).stopCadence h).window_setWindow h _
    refine ⟨by rw [record]; rfl, by rw [cadence]; rfl, by rw [cadence]; rfl, by rw [window],
      fun j other => ⟨?_, ?_, ?_⟩⟩
    · exact s.stream_setStream_of_ne (Ne.symm other) _
    · exact ((s.setStream h r.cleared).stopCadence h).window_setWindow_of_ne (Ne.symm other) _
    · exact (s.setStream h r.cleared).cadence_setCadence_of_ne (Ne.symm other) _

/-! ## The end of a negotiation (R30, R31) -/

/-- The reservation of a stream in IDLE on a rendition (R22). -/
def State.idleReservation (s : State) (r : Stream) (q : Rendition) : Nat :=
  match s.boundClip r with
  | none => 0
  | some k => r.effDepth * k.bound q

theorem State.endNegotiation_eq (s : State) (h : Handle) (q : Rendition) (reason : Reason) :
    s.endNegotiation h q reason
      = ((s.setStream h { s.stream h with
          rendition := q, probe := none, probeExpiry := none, state := .idle, pauseReason := none
          reservation := s.idleReservation (s.stream h) q }).stopCadence h).notify h reason := by
  have record : s.idleReservation (s.stream h) q = s.reservationOf { s.stream h with
      rendition := q, probe := none, probeExpiry := none, state := .idle, pauseReason := none } := rfl
  unfold State.endNegotiation State.moveTo State.reserve
  dsimp only
  rw [State.stream_setStream, State.setStream_setStream, record]
  unfold State.stopCadence
  rw [State.stream_setCadence, State.stream_setStream, State.setCadence_setStream, State.setStream_setStream]
  rfl

theorem verdictOf_eq_none {b : Byte} (other : b ≠ 1 ∧ b ≠ 2) : verdictOf b = none := by
  unfold verdictOf
  rw [if_neg other.1, if_neg other.2]

theorem Stream.probeMatches_iff (r : Stream) (src number : Half) : r.probeMatches src number = true
    ↔ r.state = .negotiating ∧ r.owner = some src ∧ r.probe = some number := by
  simp [Stream.probeMatches, and_assoc]

section Reply

variable {a : Arrival} {b verdict : Byte} {number : Half}

theorem State.takeProbeReply_taken (named : Names b h) {q : Rendition} (chosen : verdictOf verdict = some q)
    (length : a.len = 4) (matching : (s.stream h).probeMatches a.src number = true) :
    s.takeProbeReply a b verdict number = s.endNegotiation h q .negotiated := by
  unfold State.takeProbeReply
  rw [handleOf_of_names named, chosen]
  exact if_pos ⟨length, matching⟩

theorem State.takeProbeReply_large (large : 127 < b.toNat) : s.takeProbeReply a b verdict number = s := by
  unfold State.takeProbeReply
  rw [handleOf_of_large large]

theorem State.takeProbeReply_verdict (other : verdict ≠ 1 ∧ verdict ≠ 2) : s.takeProbeReply a b verdict number = s := by
  unfold State.takeProbeReply
  rw [verdictOf_eq_none other]
  split
  · rename_i e
    cases e
  · rfl

theorem State.takeProbeReply_unmatched (named : Names b h)
    (unmatched : ¬ (a.len = 4 ∧ (s.stream h).probeMatches a.src number = true)) :
    s.takeProbeReply a b verdict number = s := by
  unfold State.takeProbeReply
  rw [handleOf_of_names named]
  split
  · rename_i e _
    cases e
    exact if_neg unmatched
  · rfl

theorem exec_probeReply (taking : s.Taking .floor a.src) : exec (.probeReply a b verdict number) s
    = .next (State.settle ((s.stamp a.time).takeProbeReply a b verdict number)) := by
  change execProbeReply a b verdict number s = _
  unfold execProbeReply
  rw [State.arrive_taken taking]

end Reply

theorem State.endProbe_reached {e : Nat} (negotiating : (s.stream h).state = .negotiating)
    (expiry : (s.stream h).probeExpiry = some e) (reached : e ≤ s.now) :
    s.endProbe h = s.endNegotiation h .proxy .negotiated := by
  unfold State.endProbe State.reached
  rw [expiry]
  exact if_pos ⟨negotiating, decide_eq_true reached⟩

theorem State.endProbe_early
    (early : (s.stream h).state ≠ .negotiating ∨ ∀ e : Nat, (s.stream h).probeExpiry = some e → s.now < e) :
    s.endProbe h = s := by
  unfold State.endProbe State.reached
  refine if_neg fun ⟨negotiating, reached⟩ => ?_
  obtain other | later := early
  · exact other negotiating
  · split at reached
    · cases reached
    · rename_i e
      exact absurd (of_decide_eq_true reached) (Nat.not_le.2 (later _ e))

/-- Settles O27: the reply and the expiry are one end of the negotiation, and every other case does nothing. -/
theorem negotiationEndsByReplyOrExpiry : Obligations.NegotiationEndsByReplyOrExpiry := by
  intro s h time r ended
  have ends (q : Rendition) : State.settle ((s.stamp time).endNegotiation h q .negotiated) = ended q :=
    congrArg State.settle ((s.stamp time).endNegotiation_eq h q .negotiated)
  refine ⟨fun a b verdict number stamp taking => ?reply, fun e negotiating expiry reached => ?expiry,
    fun early => ?early⟩
  case reply =>
    subst stamp
    intro taken
    have matches_iff : a.len = 4 ∧ ((s.stamp a.time).stream h).probeMatches a.src number = true ↔ taken :=
      and_congr_right fun _ => Stream.probeMatches_iff ..
    refine ⟨fun named ok one => ?_, fun named ok two => ?_, fun otherwise => ?_⟩
    · obtain ⟨length, matching⟩ := matches_iff.2 ok
      subst one
      rw [exec_probeReply taking, State.takeProbeReply_taken named (q := .primary) rfl length matching, ends]
    · obtain ⟨length, matching⟩ := matches_iff.2 ok
      subst two
      rw [exec_probeReply taking, State.takeProbeReply_taken named (q := .proxy) rfl length matching, ends]
    · rw [exec_probeReply taking]
      obtain large | ⟨named, unmatched | other⟩ := otherwise
      · rw [State.takeProbeReply_large large]
      · rw [State.takeProbeReply_unmatched named (mt matches_iff.1 unmatched)]
      · rw [State.takeProbeReply_verdict other]
  case expiry =>
    change Host.Outcome.next (State.settle ((s.stamp time).endProbe h)) = _
    rw [State.endProbe_reached (s := s.stamp time) negotiating expiry reached, ends]
  case early =>
    change Host.Outcome.next (State.settle ((s.stamp time).endProbe h)) = _
    rw [State.endProbe_early (s := s.stamp time) early]

/-! ## Grants of credit (R49, R147) -/

theorem Stream.takesCredit_iff (r : Stream) (src : Half) : r.takesCredit src = true
    ↔ r.live = true ∧ r.state ≠ .closing ∧ r.owner = some src := by
  simp [Stream.takesCredit, and_assoc]

theorem State.settleWait_running (running : ¬ ((s.stream h).state = .playing ∧ (s.cadence h).headWait = true)) :
    s.settleWait h = s := by
  unfold State.settleWait
  exact if_neg running

/-- The wait of a PLAYING stream goes by the head (R147). -/
theorem State.settleWait_waiting (playing : (s.stream h).state = .playing) (waiting : (s.cadence h).headWait = true) :
    (s.outcome h = .wait → s.settleWait h = s)
    ∧ (∀ x : Slot, s.outcome h = .send x → s.settleWait h = (s.takeAnchor h s.now).deliverSent h x)
    ∧ ∀ (x : Slot) (why : GapCause), s.outcome h = .gap x why →
      s.settleWait h = (s.takeAnchor h s.now).deliverGap h x why := by
  unfold State.settleWait
  rw [if_pos ⟨playing, waiting⟩]
  refine ⟨fun e => ?_, fun x e => ?_, fun x why e => ?_⟩ <;> rw [e]

section Grant

variable {a : Arrival} {b n : Byte}

theorem exec_creditGrant (taking : s.Taking .floor a.src) :
    exec (.creditGrant a b n) s = .next (State.settle ((s.stamp a.time).takeCredit a b n)) := by
  change execCreditGrant a b n s = _
  unfold execCreditGrant
  rw [State.arrive_taken taking]

theorem State.takeCredit_large (large : 127 < b.toNat) : s.takeCredit a b n = s := by
  unfold State.takeCredit
  rw [handleOf_of_large large]

theorem State.takeCredit_named (named : Names b h) : s.takeCredit a b n
    = if a.len = 4 ∧ n ≠ 0 ∧ (s.stream h).takesCredit a.src = true then (s.addCredit h n.toNat).settleWait h
      else s := by
  unfold State.takeCredit
  rw [handleOf_of_names named]

theorem State.takeCredit_malformed (bad : n = 0 ∨ a.len ≠ 4) : s.takeCredit a b n = s := by
  unfold State.takeCredit
  split
  · rfl
  · refine if_neg fun ⟨length, count, _⟩ => ?_
    obtain zero | other := bad
    · exact count zero
    · exact other length

end Grant

/-- Settles O28: a grant that is taken adds credit and settles a wait; any other is dropped. -/
theorem creditGrantsAddCredit : Obligations.CreditGrantsAddCredit := by
  intro s a b n taking
  have grant := exec_creditGrant (b := b) (n := n) taking
  refine ⟨fun bad => ?malformed, fun h named => ?named⟩
  case malformed =>
    rw [grant]
    obtain large | bad := bad
    · rw [State.takeCredit_large large]
    · rw [State.takeCredit_malformed bad]
  case named =>
    intro r
    refine ⟨fun stranger => ?_, fun live open_ owner count length => ?_⟩
    · rw [grant, State.takeCredit_named (s := s.stamp a.time) named, if_neg]
      rintro ⟨-, -, takes⟩
      obtain ⟨live, open_, owner⟩ := (Stream.takesCredit_iff ..).1 takes
      obtain dead | closing | other := stranger
      · exact Bool.false_ne_true (dead.symm.trans live)
      · exact open_ closing
      · exact other owner
    · intro u
      have takes : ((s.stamp a.time).stream h).takesCredit a.src = true :=
        (Stream.takesCredit_iff ..).2 ⟨live, open_, owner⟩
      have granted : exec (.creditGrant a b n) s = .next (State.settle (u.settleWait h)) := by
        rw [grant, State.takeCredit_named (s := s.stamp a.time) named, if_pos ⟨length, count, takes⟩]
        rfl
      have state : (u.stream h).state = r.state := by
        unfold u
        rw [State.stream_setStream]
      refine ⟨fun running => ?_, fun playing waiting => ?_⟩
      · rw [granted, State.settleWait_running (s := u) (by rw [state]; exact running)]
      · obtain ⟨wait, send, gap⟩ := State.settleWait_waiting (s := u) (state.trans playing) waiting
        exact ⟨fun e => by rw [granted, wait e], fun x e => by rw [granted, send x e],
          fun x why e => by rw [granted, gap x why e]⟩

end Sys2Proof.Machine
end

section
/-! PROOFS. RESET STREAMS: a stream closed at once, and all of them in handle order. -/

namespace Sys2Proof.Machine

open Sys2Proof

variable {s : State}

/-! ## Abandoned frames (R160) -/

/-- What abandoning a stream's frames leaves in the delivery unit. -/
def FloorTransmitter.abandon (x : FloorTransmitter) (h : Handle) : FloorTransmitter :=
  { x with
    queue := x.queue.filter (fun d => d.handle != h)
    current := if x.current.any (fun d => d.handle == h) then none else x.current
    sending := match x.sending with
      | some (.segment d fd) => some (.segment { d with abandoned := d.abandoned || d.handle == h } fd)
      | m => m }

theorem State.abandonFrames_eq (s : State) (h : Handle) : s.abandonFrames h = { s with tx := s.tx.abandon h } := by
  refine congrArg (fun x => { s with tx := x }) ?_
  unfold FloorTransmitter.abandon
  dsimp only
  congr 1
  · cases s.tx.current with
    | none => rfl
    | some d => simp
  · cases s.tx.sending with
    | none => rfl
    | some m =>
      cases m with
      | segment d fd =>
        by_cases e : d.handle = h
        · simp [e]
        · have other : (d.handle == h) = false := beq_eq_false_iff_ne.2 e
          simp only [other, Bool.or_false]
          exact if_neg e
      | _ => rfl

/-! ## One stream closed at once (R53, R54) -/

theorem State.closeAtOnce_dead {h : Handle} (dead : (s.stream h).live = false) : s.closeAtOnce h = s := by
  unfold State.closeAtOnce
  dsimp only
  rw [dead]
  rfl

theorem State.closeAtOnce_live {h : Handle} (live : (s.stream h).live = true) : s.closeAtOnce h
    = ((((s.abandonFrames h).detachSending h).detachWindow h).clearRecord h).notifyOwner (s.stream h).owner h
      .reset := by
  unfold State.closeAtOnce
  dsimp only
  rw [if_pos live]

theorem Stream.closed_of_dead {r : Stream} (dead : r.live = false) : r.state = .closed := by
  unfold Stream.live at dead
  simpa using dead

/-- What closing one stream at once leaves: the other records, and of its own a CLOSED one. -/
theorem State.closeAtOnce_records (s : State) (h : Handle) :
    (∀ j : Handle, j ≠ h → (s.closeAtOnce h).stream j = s.stream j)
    ∧ ((s.closeAtOnce h).stream h).state = .closed
    ∧ (((s.stream h).state = .closed → (s.stream h).reservation = 0) → ((s.closeAtOnce h).stream h).reservation = 0)
    ∧ (s.closeAtOnce h).rules = s.rules ∧ (s.closeAtOnce h).probes = s.probes := by
  cases live : (s.stream h).live with
  | false =>
    rw [State.closeAtOnce_dead live]
    have closed := Stream.closed_of_dead live
    exact ⟨fun _ _ => rfl, closed, fun empty => empty closed, rfl, rfl⟩
  | true =>
    rw [State.closeAtOnce_live live]
    have detached : Quiet (s.abandonFrames h) (((s.abandonFrames h).detachSending h).detachWindow h) :=
      ((Quiet.refl _).detachSending h).detachWindow h
    generalize ((s.abandonFrames h).detachSending h).detachWindow h = p at detached
    have start : LeavesOthers h s (s.abandonFrames h) := ⟨fun _ _ => rfl, rfl⟩
    have removed := (start.quiet detached).setStream (p.stream h).cleared
    have leaves : LeavesOthers h s (p.clearRecord h) := ⟨removed.others, removed.rules⟩
    have cleared : (p.clearRecord h).stream h = (p.stream h).cleared := State.stream_setStream ..
    have probes : (p.clearRecord h).probes = s.probes := detached.probes
    generalize p.clearRecord h = q at leaves cleared probes
    have placed := OnlyPlaces.notifyOwner q (s.stream h).owner h .reset
    have noticed := leaves.acts (ActsOn.notifyOwner (.refl _) (s.stream h).owner .reset)
    refine ⟨noticed.others, ?_, fun _ => ?_, noticed.rules, placed.probes.trans probes⟩
    · rw [placed.state, cleared]
      rfl
    · rw [placed.read Stream.reservation fun _ _ => rfl, cleared]
      rfl

/-! ## All streams closed at once -/

/-- The streams of a list end CLOSED, and a CLOSED one stays so. -/
theorem State.closeAll_closed (l : List Handle) : ∀ s : State,
    ∀ h : Handle, h ∈ l ∨ (s.stream h).state = .closed → ((l.foldl State.closeAtOnce s).stream h).state = .closed := by
  induction l with
  | nil =>
    rintro s h (listed | closed)
    · cases listed
    · exact closed
  | cons k l ih =>
    intro s h listed
    obtain ⟨others, closed, -⟩ := s.closeAtOnce_records k
    refine ih _ h ?_
    by_cases e : h = k
    · subst e
      exact .inr closed
    · rw [others h e]
      obtain listed | still := listed
      · exact .inl ((List.mem_cons.1 listed).resolve_left e)
      · exact .inr still

/-- Where no CLOSED record holds a reservation, closing leaves none that does. -/
theorem State.closeAll_reservations (l : List Handle) : ∀ s : State,
    (∀ h : Handle, (s.stream h).state = .closed → (s.stream h).reservation = 0) →
    ∀ h : Handle, ((l.foldl State.closeAtOnce s).stream h).state = .closed →
      ((l.foldl State.closeAtOnce s).stream h).reservation = 0 := by
  induction l with
  | nil => exact fun s empty => empty
  | cons k l ih =>
    intro s empty
    obtain ⟨others, -, freed, -⟩ := s.closeAtOnce_records k
    refine ih _ fun h closed => ?_
    by_cases e : h = k
    · subst e
      exact freed (empty h)
    · rw [others h e] at closed ⊢
      exact empty h closed

theorem State.closeAll_rules (l : List Handle) : ∀ s : State, (l.foldl State.closeAtOnce s).rules = s.rules
    ∧ (l.foldl State.closeAtOnce s).probes = s.probes := by
  induction l with
  | nil => exact fun s => ⟨rfl, rfl⟩
  | cons k l ih =>
    intro s
    obtain ⟨-, -, -, rules, probes⟩ := s.closeAtOnce_records k
    exact ⟨(ih _).1.trans rules, (ih _).2.trans probes⟩

theorem exec_resetStreams {a : Arrival} (taking : s.Taking .array a.src) (len : 8 ≤ a.len) (req : Word) :
    exec (.resetStreams a req) s = .next (State.settle ((s.stamp a.time).bare a req .resetStreams
      (fun s => (s.closeAll handles).reply a req .resetStreams .ok))) := by
  change execResetStreams a req s = _
  unfold execResetStreams
  rw [State.arrive_taken taking, State.readableManage_of_le len]

/-- Settles O51: the verb as a fold over the handles, and one step of the fold. -/
theorem resetStreamsClosesEveryStream : Obligations.ResetStreamsClosesEveryStream := by
  refine ⟨fun s a req taking len => ?verb, fun s h => ?one⟩
  case verb =>
    intro v u
    have folded : v.closeAll handles = u := State.closeAll_eq_foldl handles v
    have kept : Keeps v u := folded ▸ (Keeps.refl v).closeAll handles
    have closed (h : Handle) : (u.stream h).state = .closed :=
      State.closeAll_closed handles v h (.inl (List.mem_finRange h))
    refine ⟨fun long => ?_, fun whole => ?_, closed, fun empty => ?_, kept.tables,
      (State.closeAll_rules handles v).1, (State.closeAll_rules handles v).2, kept.memory, kept.array⟩
    · rw [exec_resetStreams taking len]
      unfold State.bare
      rw [if_neg long]
      rfl
    · rw [exec_resetStreams taking len]
      unfold State.bare
      rw [if_pos whole, ← folded]
      rfl
    · rw [State.reservationSum_eq]
      exact Finset.sum_eq_zero fun h _ => State.closeAll_reservations handles v empty h (closed h)
  case one =>
    refine ⟨State.closeAtOnce_dead, fun o live owner => ?_⟩
    intro abandoned detach p q
    have left : s.abandonFrames h = abandoned := s.abandonFrames_eq h
    have sent : (s.abandonFrames h).detachSending h = p := by
      unfold State.detachSending
      rw [State.detachSlots_eq_foldl, left]
      rfl
    have bare : p.detachWindow h = q := State.detachSlots_eq_foldl ..
    rw [State.closeAtOnce_live live, sent, bare, owner]
    rfl

end Sys2Proof.Machine
end

section
/-! PROOFS. THE COMMIT WALK: a visit, the end of the walk, a stream that faults, a withdrawn one, and a re-bind. -/

namespace Sys2Proof.Machine

open Sys2Proof

variable {s : State} {h : Handle}

/-! ## The walk (R193, R195) -/

theorem exec_commitWalkVisit (t : Nat) : exec (.commitWalkVisit t) s = .next (s.stamp t).walkVisit.settle := rfl

theorem exec_commitWalkEnd (t : Nat) : exec (.commitWalkEnd t) s = .next (s.stamp t).walkEnd.settle := rfl

theorem State.walkVisit_idle (idle : s.tables.walk = .idle) : s.walkVisit = s := by
  unfold State.walkVisit
  rw [idle]

theorem State.walkEnd_idle (idle : s.tables.walk = .idle) : s.walkEnd = s := by
  unfold State.walkEnd
  rw [idle]

section Walking

variable {n : Nat} {asker req : Half} {id : Word}

theorem State.walkVisit_walking (h : Handle) (walking : s.tables.walk = .walking h.1 asker id) :
    s.walkVisit = (s.visit h).setWalk (.walking (h.1 + 1) asker id) := by
  unfold State.walkVisit
  rw [walking]
  exact dif_pos h.2

theorem State.walkVisit_past (walking : s.tables.walk = .walking n asker id) (past : 128 ≤ n) : s.walkVisit = s := by
  unfold State.walkVisit
  rw [walking]
  exact dif_neg (by omega)

theorem State.walkEnd_before (walking : s.tables.walk = .walking n asker id) (before : n < 128) : s.walkEnd = s := by
  unfold State.walkEnd
  rw [walking]
  exact if_pos before

theorem State.walkEnd_past (walking : s.tables.walk = .walking n asker id) (past : 128 ≤ n) :
    s.walkEnd = State.answerCommit { s with tables := s.tables.endWalk }
      { dst := asker, req := id, verb := 8, result := .ok, walking := false, generation := s.tables.generation
        body := .empty } := by
  unfold State.walkEnd
  rw [walking]
  exact if_neg (by omega)

end Walking

theorem State.answerCommit_down (down : s.array.linkUp = false) (m : ManageAnswer) : s.answerCommit m = s := by
  unfold State.answerCommit
  rw [down]
  rfl

theorem State.answerCommit_placed (up : s.array.linkUp = true) (room : s.array.control.length < 16) (m : ManageAnswer) :
    s.answerCommit m = s.pushArray (.ma m) := by
  unfold State.answerCommit
  rw [up, show s.arrayRoom = true from decide_eq_true room]
  rfl

theorem State.answerCommit_waits (up : s.array.linkUp = true) (full : 16 ≤ s.array.control.length) (m : ManageAnswer) :
    s.answerCommit m = { s with responder := { s.responder with waiting := some m } } := by
  unfold State.answerCommit
  rw [up, show s.arrayRoom = false from decide_eq_false (Nat.not_lt.2 full)]
  rfl

/-! ## A visit (R44) -/

theorem State.ownerPresent_iff (s : State) (r : Stream) : s.ownerPresent r = true
    ↔ ∃ o : Half, r.owner = some o ∧ s.tables.active.station o ≠ none := by
  unfold State.ownerPresent
  cases r.owner with
  | none => simp
  | some o => simp [Option.isSome_iff_ne_none]

theorem State.ownerPresent_false (s : State) {r : Stream}
    (absent : ¬ ∃ o : Half, r.owner = some o ∧ s.tables.active.station o ≠ none) : s.ownerPresent r = false :=
  Bool.eq_false_iff.2 fun present => absent ((s.ownerPresent_iff r).1 present)

theorem State.visit_ended (ended : (s.stream h).state = .closed ∨ (s.stream h).state = .closing) : s.visit h = s := by
  unfold State.visit
  dsimp only
  obtain e | e := ended
  all_goals rw [e]

theorem State.visit_absent (open_ : (s.stream h).state ≠ .closed) (staying : (s.stream h).state ≠ .closing)
    (absent : s.ownerPresent (s.stream h) = false) : s.visit h = s.closeWithdrawn h := by
  unfold State.visit
  dsimp only
  rw [absent]
  cases e : (s.stream h).state with
  | closed => exact absurd e open_
  | closing => exact absurd e staying
  | _ => rfl

theorem State.visit_faulted (faulted : (s.stream h).state = .faulted)
    (present : s.ownerPresent (s.stream h) = true) : s.visit h = s := by
  unfold State.visit
  dsimp only
  rw [faulted, present]
  rfl

theorem State.visit_present (open_ : (s.stream h).state ≠ .closed) (staying : (s.stream h).state ≠ .closing)
    (sound : (s.stream h).state ≠ .faulted) (present : s.ownerPresent (s.stream h) = true) :
    s.visit h = s.settleBinding h (s.stream h) := by
  unfold State.visit
  dsimp only
  rw [present]
  cases e : (s.stream h).state with
  | closed => exact absurd e open_
  | closing => exact absurd e staying
  | faulted => exact absurd e sound
  | _ => rfl

section Binding

variable {r : Stream} {i e : Word} {k : Clip} {x : RenditionRecord}

theorem State.settleBinding_gone (bound : r.binding = some (i, e)) (gone : s.tables.active.clip i = none) :
    s.settleBinding h r = s.faultStream h .clipWithdrawn := by
  unfold State.settleBinding
  rw [bound]
  dsimp only
  rw [gone]

theorem State.settleBinding_without (bound : r.binding = some (i, e)) (found : s.tables.active.clip i = some k)
    (without : k.record r.rendition = none) : s.settleBinding h r = s.faultStream h .renditionWithdrawn := by
  unfold State.settleBinding
  rw [bound]
  dsimp only
  rw [found]
  dsimp only
  rw [without]

theorem State.settleBinding_found (bound : r.binding = some (i, e)) (found : s.tables.active.clip i = some k)
    (rendition : k.record r.rendition = some x) :
    (x.frameCount ≤ r.position → s.settleBinding h r = s.faultStream h .renditionWithdrawn)
    ∧ (r.position < x.frameCount → k.edition = some e → s.settleBinding h r = s)
    ∧ (r.position < x.frameCount → ∀ e' : Word, k.edition = some e' → e' ≠ e →
      s.settleBinding h r = s.rebind h k e') := by
  unfold State.settleBinding
  rw [bound]
  dsimp only
  rw [found]
  dsimp only
  rw [rendition]
  dsimp only
  refine ⟨fun past => if_pos past, fun inside same => ?_, fun inside e' edition newer => ?_⟩
  · rw [if_neg (Nat.not_le.2 inside), same]
    exact if_pos rfl
  · rw [if_neg (Nat.not_le.2 inside), edition]
    exact if_neg newer

end Binding

/-! ## A stream that faults (R45) -/

/-- What a stream that faults leaves of its window, and of its record. -/
theorem State.faultStream_eq (s : State) (h : Handle) (reason : Reason) {w : State}
    (e : ((((((s.moveTo h .faulted).abandonFrames h).detachSending h).detachWindow h).setCursor h none) = w)) :
    w.window h = { slots := [], sending := [], cursor := none }
    ∧ s.faultStream h reason = (w.setStream h { s.stream h with
        state := .faulted, pauseReason := none, probe := none, probeExpiry := none, autoplay := false, marks := 0
        demoted := false, reservation := 0 }).notify h reason := by
  have quiet : Quiet ((s.moveTo h .faulted).abandonFrames h) w :=
    e ▸ (((Quiet.refl _).detachSending h).detachWindow h).setCursor h none
  have record : w.stream h = { s.stream h with state := .faulted, pauseReason := none } := by
    rw [quiet.stream]
    exact State.stream_setStream ..
  constructor
  · subst e
    generalize (s.moveTo h .faulted).abandonFrames h = p
    refine (State.window_setWindow ..).trans ?_
    dsimp only
    rw [State.detachWindow_slots, State.detachWindow_sending _ _ (State.detachSending_sending p h)]
  · unfold State.faultStream
    dsimp only
    rw [e, record]

/-! ## A re-bind (R47, R144) -/

theorem State.fits_eq_false_iff (s : State) (present wanted : Nat) : s.fits present wanted = false
    ↔ s.tables.active.policy.ceiling < s.reservationSum - present + wanted := by
  unfold State.fits
  rw [decide_eq_false_iff_not, Nat.not_le]

theorem State.boundRate_of_boundClip {r : Stream} {k : Clip} (clip : s.boundClip r = some k) :
    s.boundRate r = some (k.numerator, k.denominator) := by
  unfold State.boundRate
  rw [clip]

theorem State.boundRecord_of_boundClip {r : Stream} {k : Clip} (clip : s.boundClip r = some k) :
    s.boundRecord r = k.record r.rendition := by
  unfold State.boundRecord
  rw [clip]

theorem State.idleReservation_of_boundClip {r : Stream} {k : Clip} (clip : s.boundClip r = some k) (q : Rendition) :
    s.idleReservation r q = r.effDepth * k.bound q := by
  unfold State.idleReservation
  rw [clip]

section Rate

variable {rate : Option (Nat × Nat)}

theorem State.changeRate_kept (bound : s.boundRate (s.stream h) = rate)
    (kept : ¬ ((s.stream h).state = .playing ∧ (s.cadence h).rate ≠ rate)) : s.changeRate h = s := by
  unfold State.changeRate
  dsimp only
  rw [bound]
  exact if_neg kept

theorem State.changeRate_running (bound : s.boundRate (s.stream h) = rate)
    (changed : (s.stream h).state = .playing ∧ (s.cadence h).rate ≠ rate) {due : Nat}
    (running : (s.cadence h).nextDue = some due) : s.changeRate h
    = (s.setCadence h { anchor := max due s.now, index := 0, nextDue := some (max due s.now), headWait := false
                        rate := rate }).recomputeDeadlines h := by
  unfold State.changeRate
  dsimp only
  rw [bound, if_pos changed, running]
  dsimp only
  rw [State.takeAnchor_eq, State.cadence_setCadence, State.setCadence_setCadence]
  rfl

theorem State.changeRate_stopped (bound : s.boundRate (s.stream h) = rate)
    (changed : (s.stream h).state = .playing ∧ (s.cadence h).rate ≠ rate)
    (stopped : (s.cadence h).nextDue = none) : s.changeRate h
    = s.setCadence h { s.cadence h with rate := rate } := by
  unfold State.changeRate
  dsimp only
  rw [bound, if_pos changed, stopped]

end Rate

/-- A change of rate leaves the records and the tables. -/
theorem State.changeRate_kept_fields (s : State) (h : Handle) :
    (s.changeRate h).stream h = s.stream h ∧ (s.changeRate h).tables = s.tables := by
  generalize bound : s.boundRate (s.stream h) = rate
  by_cases changed : (s.stream h).state = .playing ∧ (s.cadence h).rate ≠ rate
  · cases running : (s.cadence h).nextDue with
    | none =>
      rw [State.changeRate_stopped bound changed running]
      exact ⟨rfl, rfl⟩
    | some due =>
      rw [State.changeRate_running bound changed running]
      have quiet := (Quiet.refl (s.setCadence h { anchor := max due s.now, index := 0, nextDue := some (max due s.now)
                                                  headWait := false, rate := rate })).recomputeDeadlines h
      exact ⟨quiet.stream h, quiet.tables⟩
  · rw [State.changeRate_kept bound changed]
    exact ⟨rfl, rfl⟩

theorem State.boundRecord_congr {t : State} (tables : t.tables = s.tables) (r : Stream) :
    t.boundRecord r = s.boundRecord r := by
  unfold State.boundRecord State.boundClip
  rw [tables]

theorem State.rebuild_windowed (windowed : (s.stream h).windowed = true) :
    s.rebuild h = (s.detachWindow h).build h := by
  unfold State.rebuild
  exact if_pos windowed

/-- A window is kept where the geometry is, and is otherwise rebuilt. -/
theorem State.keepOrRebuild_found {x y : RenditionRecord} (windowed : (s.stream h).windowed = true)
    (found : s.boundRecord (s.stream h) = some y) :
    (x.sameGeometry y = true → s.keepOrRebuild h (some x) = s)
    ∧ (x.sameGeometry y = false →
      s.keepOrRebuild h (some x) = ((s.detachWindow h).build h).windowChanged h) := by
  unfold State.keepOrRebuild
  rw [found]
  refine ⟨fun same => if_pos same, fun differs => ?_⟩
  rw [← State.rebuild_windowed windowed]
  exact if_neg (Bool.eq_false_iff.1 differs)

section Rebind

variable {k : Clip} {e : Word}

/-- The state of a re-bind that is not refused: the new edition and reservation. -/
def State.rebound (s : State) (h : Handle) (k : Clip) (e : Word) : State :=
  s.setStream h { s.stream h with
    binding := some (k.clipId, e)
    reservation := reservationFor (s.stream h).state (s.stream h).effDepth (s.stream h).rendition k }

theorem State.rebind_refused
    (raise : (s.stream h).reservation
      < reservationFor (s.stream h).state (s.stream h).effDepth (s.stream h).rendition k)
    (exceeds : s.fits (s.stream h).reservation
      (reservationFor (s.stream h).state (s.stream h).effDepth (s.stream h).rendition k) = false) :
    s.rebind h k e = s.faultStream h .renditionWithdrawn := by
  unfold State.rebind
  exact if_pos ⟨raise, exceeds⟩

/-- A re-bind that is not refused, by the state of the stream. -/
theorem State.rebind_taken
    (taken : ¬ ((s.stream h).reservation
        < reservationFor (s.stream h).state (s.stream h).effDepth (s.stream h).rendition k
      ∧ s.fits (s.stream h).reservation
        (reservationFor (s.stream h).state (s.stream h).effDepth (s.stream h).rendition k) = false)) :
    ((s.stream h).state = .negotiating → k.proxy ≠ none → s.rebind h k e = s.rebound h k e)
    ∧ ((s.stream h).state = .negotiating → k.proxy = none →
      s.rebind h k e = (s.rebound h k e).endNegotiation h .primary .negotiated)
    ∧ ((s.stream h).windowed = true →
      s.rebind h k e = ((s.rebound h k e).changeRate h).keepOrRebuild h (s.boundRecord (s.stream h)))
    ∧ ((s.stream h).state ≠ .negotiating → (s.stream h).windowed = false → s.rebind h k e = s.rebound h k e) := by
  unfold State.rebind
  dsimp only
  rw [if_neg taken]
  refine ⟨fun negotiating proxied => ?_, fun negotiating without => ?_, fun windowed => ?_, fun other bare => ?_⟩
  · rw [if_pos negotiating, if_neg fun absent => proxied (Option.isNone_iff_eq_none.1 absent)]
    rfl
  · rw [if_pos negotiating, without]
    rfl
  · have other : (s.stream h).state ≠ .negotiating := fun negotiating => by
      unfold Stream.windowed at windowed
      rw [negotiating] at windowed
      cases windowed
    rw [if_neg other, if_pos windowed]
    rfl
  · rw [if_neg other, bare]
    rfl

theorem State.boundClip_rebound (active : s.tables.active.clip k.clipId = some k) (edition : k.edition = some e) :
    (s.rebound h k e).boundClip ((s.rebound h k e).stream h) = some k :=
  State.boundClip_of_active (s := s.rebound h k e) active edition (by
    rw [State.rebound, State.stream_setStream])

end Rebind

/-- Settles O48: the walk by its state, a visit by the record's state and its entry, a fault and a withdrawal field by
field, and a re-bind by the state of the stream. -/
theorem theCommitWalkVisitsAndEnds : Obligations.TheCommitWalkVisitsAndEnds := by
  refine ⟨fun s time => ?walk, fun s h reason => ?fault, fun s h o owner => ?withdrawn,
    fun s h k e active edition open_ sound => ?rebind⟩
  case walk =>
    intro v
    refine ⟨fun idle => ⟨settled_congr (State.walkVisit_idle (s := v) idle),
      settled_congr (State.walkEnd_idle (s := v) idle)⟩,
      fun n asker req walking => ⟨fun h here => ?visit, fun past => ?ended⟩⟩
    case visit =>
      subst here
      intro r here
      refine ⟨settled_congr (State.walkEnd_before (s := v) walking h.2),
        settled_congr (State.walkVisit_walking (s := v) h walking),
        State.visit_ended (s := v),
        fun live staying absent => State.visit_absent (s := v) live staying (v.ownerPresent_false absent),
        fun faulted present => State.visit_faulted (s := v) faulted ((v.ownerPresent_iff r).2 present),
        fun live staying sound present i e bound => ?_⟩
      rw [State.visit_present (s := v) live staying sound ((v.ownerPresent_iff r).2 present)]
      exact ⟨State.settleBinding_gone (s := v) bound, fun k found =>
        ⟨State.settleBinding_without (s := v) bound found, fun x rendition =>
          State.settleBinding_found (s := v) bound found rendition⟩⟩
    case ended =>
      intro u m
      have walked : exec (.commitWalkEnd time) s = .next (u.answerCommit m).settle :=
        settled_congr (State.walkEnd_past (s := v) walking past)
      refine ⟨settled_congr (State.walkVisit_past (s := v) walking past),
        fun down => ?_, fun up room => ?_, fun up full => ?_⟩
      · rw [walked, State.answerCommit_down (s := u) down]
      · rw [walked, State.answerCommit_placed (s := u) up room]
        rfl
      · rw [walked, State.answerCommit_waits (s := u) up full]
        rfl
  case fault =>
    intro r v abandoned w
    have left : (s.moveTo h .faulted).abandonFrames h = abandoned := State.abandonFrames_eq ..
    exact s.faultStream_eq h reason (w := w) (by rw [left])
  case withdrawn =>
    intro u w closed
    have begun : s.beginClose h true = w := s.beginClose_eq h true
    have record : w.stream h = { s.stream h with
        autoplay := false, probe := none, probeExpiry := none, withdrawn := true, state := .closing
        pauseReason := none } := begun ▸ s.stream_beginClose h true
    have finished : closed = w.finishClose h := congrArg (State.finishClose · h) begun
    refine ⟨State.detachWindow_slots u h, fun sending => ?_, fun sent => ?_⟩
    · rw [finished, State.finishClose_sending sending]
    · rw [finished, State.finishClose_done (by rw [record]) sent,
        State.completeClose_owned (o := o) (by rw [record]; exact owner), record]
      rfl
  case rebind =>
    intro r u wanted refused
    have named : reservationFor r.state r.effDepth r.rendition k = wanted := reservationFor_live open_ sound ..
    refine ⟨fun ⟨raise, exceeds⟩ => State.rebind_refused (by rw [named]; exact raise)
      (by rw [named]; exact (s.fits_eq_false_iff ..).2 exceeds), fun fits => ?_⟩
    intro bound m
    have rebound : s.rebound h k e = m := by
      unfold State.rebound
      rw [named]
    have clip : m.boundClip (m.stream h) = some k := rebound ▸ State.boundClip_rebound active edition
    have record : m.stream h = bound := State.stream_setStream ..
    obtain ⟨proxied, without, windowed, other⟩ := State.rebind_taken (s := s) (h := h) (k := k) (e := e)
      (by rw [named]; exact fun ⟨raise, exceeds⟩ => fits ⟨raise, (s.fits_eq_false_iff ..).1 exceeds⟩)
    rw [rebound] at proxied without windowed other
    refine ⟨fun idle => other ?_ ?_, proxied, fun negotiating alone => ?_, fun holds => ?_⟩
    · rw [show (s.stream h).state = _ from idle]
      decide
    · unfold Stream.windowed
      rw [show (s.stream h).state = _ from idle]
      rfl
    · rw [show u = _ from without negotiating alone, State.endNegotiation_eq,
        State.idleReservation_of_boundClip clip, record, State.setStream_setStream]
    · intro c rate n x y old new same
      have changed : m.changeRate h = n := by
        have bounded : m.boundRate (m.stream h) = rate := State.boundRate_of_boundClip clip
        by_cases changes : r.state = .playing ∧ c.rate ≠ rate
        · have changing : (m.stream h).state = .playing ∧ (m.cadence h).rate ≠ rate := by rw [record]; exact changes
          cases running : c.nextDue with
          | none =>
            rw [State.changeRate_stopped bounded changing running]
            simp only [n, if_pos changes, running]
            rw [← running]
            rfl
          | some due =>
            rw [State.changeRate_running bounded changing running]
            simp only [n, if_pos changes, running]
            rfl
        · rw [State.changeRate_kept bounded (by rw [record]; exact changes)]
          exact (if_neg changes).symm
      have kept := m.changeRate_kept_fields h
      rw [changed] at kept
      have found : n.boundRecord (n.stream h) = some y := by
        rw [State.boundRecord_congr kept.2, kept.1, State.boundRecord_of_boundClip clip, record]
        exact new
      have rebuilt := State.keepOrRebuild_found (s := n) (h := h) (x := x) (by rw [kept.1, record]; exact holds) found
      rw [show u = _ from windowed holds, changed, show s.boundRecord (s.stream h) = some x from old]
      exact ⟨fun alike => rebuilt.1 (x.sameGeometry_iff y |>.2 alike),
        fun differ => rebuilt.2 (Bool.eq_false_iff.2 fun alike => differ (x.sameGeometry_iff y |>.1 alike))⟩

end Sys2Proof.Machine
end

section
/-! PROOFS. TRANSMISSION ENDS: what each message in transmission leaves behind, and the blocks of a local answer. -/

namespace Sys2Proof.Machine

open Sys2Proof

variable {s : State} {h : Handle} {serial : Nat}

/-! ## The end of a frame (R67, R159)

A detach and a top-up keep every record and every cadence, so the state that was read before the detach still
decides. -/

section Ended

theorem State.stream_detachSlot (s : State) (h : Handle) (serial : Nat) (k : Handle) :
    (s.detachSlot h serial).stream k = s.stream k := ((Quiet.refl s).detachSlot h serial).stream k

theorem State.quiet_toppedUp (s : State) (h : Handle) (serial : Nat) : Quiet s ((s.detachSlot h serial).topUp h) :=
  ((Quiet.refl s).detachSlot h serial).topUp h

theorem State.transmissionEnded_closing (closing : (s.stream h).state = .closing) : s.transmissionEnded h serial
    = if ((s.detachSlot h serial).window h).sending = [] then (s.detachSlot h serial).completeClose h
      else s.detachSlot h serial := by
  have same := s.stream_detachSlot h serial h
  unfold State.transmissionEnded
  dsimp only
  rw [same, closing]
  dsimp only
  unfold State.finishClose
  rw [same]
  simp only [closing, true_and, List.isEmpty_iff]

theorem State.transmissionEnded_priming (priming : (s.stream h).state = .priming) :
    s.transmissionEnded h serial = ((s.detachSlot h serial).topUp h).reportPriming h := by
  unfold State.transmissionEnded
  dsimp only
  rw [s.stream_detachSlot, priming]

theorem State.transmissionEnded_primed (primed : (s.stream h).state = .primed) :
    s.transmissionEnded h serial = (s.detachSlot h serial).topUp h := by
  unfold State.transmissionEnded
  dsimp only
  rw [s.stream_detachSlot, primed]

theorem State.transmissionEnded_playing (playing : (s.stream h).state = .playing) :
    s.transmissionEnded h serial
      = if (((s.detachSlot h serial).topUp h).window h).bare then ((s.detachSlot h serial).topUp h).endOfClip h
        else ((s.detachSlot h serial).topUp h).settleWait h := by
  unfold State.transmissionEnded
  dsimp only
  rw [s.stream_detachSlot, playing]

theorem State.transmissionEnded_paused (paused : (s.stream h).state = .paused) :
    s.transmissionEnded h serial
      = if (((s.detachSlot h serial).topUp h).window h).bare then ((s.detachSlot h serial).topUp h).endOfClip h
        else (s.detachSlot h serial).topUp h := by
  unfold State.transmissionEnded
  dsimp only
  rw [s.stream_detachSlot, paused]

theorem State.transmissionEnded_other (closing : (s.stream h).state ≠ .closing)
    (priming : (s.stream h).state ≠ .priming)
    (primed : (s.stream h).state ≠ .primed) (playing : (s.stream h).state ≠ .playing)
    (paused : (s.stream h).state ≠ .paused) : s.transmissionEnded h serial = s.detachSlot h serial := by
  unfold State.transmissionEnded
  dsimp only
  rw [s.stream_detachSlot]
  cases e : (s.stream h).state with
  | closing => exact absurd e closing
  | priming => exact absurd e priming
  | primed => exact absurd e primed
  | playing => exact absurd e playing
  | paused => exact absurd e paused
  | _ => rfl

/-- A PLAYING or PAUSED stream whose window is bare after the top-up has ended its clip. -/
theorem State.transmissionEnded_bare (running : (s.stream h).state = .playing ∨ (s.stream h).state = .paused)
    (bare : (((s.detachSlot h serial).topUp h).window h).bare = true) :
    s.transmissionEnded h serial = ((s.detachSlot h serial).topUp h).endOfClip h := by
  obtain playing | paused := running
  · rw [State.transmissionEnded_playing playing, if_pos bare]
  · rw [State.transmissionEnded_paused paused, if_pos bare]

end Ended

/-! ## The message in transmission (R156, R159, R93) -/

theorem exec_floorTransmissionEnd (t : Nat) :
    exec (.floorTransmissionEnd t) s = .next (s.stamp t).endFloorMessage.settle := rfl

theorem exec_frameTransmissionEnd (t : Nat) :
    exec (.frameTransmissionEnd t) s = .next (s.stamp t).endLastSegment.settle := rfl

theorem exec_localAnswerBdSent (t : Nat) :
    exec (.localAnswerBdSent t) s = .next (s.stamp t).endSentBlock.settle := rfl

/-- What the three events do where no message is in transmission. -/
theorem State.ends_free (free : s.tx.sending = none) :
    s.endFloorMessage = s ∧ s.endLastSegment = s ∧ s.endSentBlock = s := by
  unfold State.endFloorMessage State.endLastSegment State.endSentBlock
  rw [free]
  exact ⟨rfl, rfl, rfl⟩

/-- What they do at the end of a control message or of a forwarded one. -/
theorem State.ends_control {m : FloorControl} (sending : s.tx.sending = some (.control m)) :
    s.endFloorMessage = s.freeFloor ∧ s.endLastSegment = s ∧ s.endSentBlock = s := by
  unfold State.endFloorMessage State.endLastSegment State.endSentBlock
  rw [sending]
  exact ⟨rfl, rfl, rfl⟩

theorem State.ends_forwarded {f : Frame} (sending : s.tx.sending = some (.forwarded f)) :
    s.endFloorMessage = s.freeFloor ∧ s.endLastSegment = s ∧ s.endSentBlock = s := by
  unfold State.endFloorMessage State.endLastSegment State.endSentBlock
  rw [sending]
  exact ⟨rfl, rfl, rfl⟩

/-- What they do at the end of a segment. -/
theorem State.ends_segment {d : Delivery} {fd : FrameSegment} (sending : s.tx.sending = some (.segment d fd)) :
    s.endFloorMessage = (if endsFrame d fd = true then s.endFrame d else s.freeFloor)
    ∧ s.endLastSegment = (if endsFrame d fd = true then s.endFrame d else s) ∧ s.endSentBlock = s := by
  unfold State.endFloorMessage State.endLastSegment State.endSentBlock
  rw [sending]
  exact ⟨rfl, rfl, rfl⟩

/-- What they do at the end of a BD. -/
theorem State.ends_answer {bd : AnswerData} (sending : s.tx.sending = some (.answer serial bd)) :
    s.endFloorMessage = s.endAnswerBlock serial bd ∧ s.endLastSegment = s
    ∧ s.endSentBlock = s.endAnswerBlock serial bd := by
  unfold State.endFloorMessage State.endLastSegment State.endSentBlock
  rw [sending]
  exact ⟨rfl, rfl, rfl⟩

theorem endsFrame_iff (d : Delivery) (fd : FrameSegment) :
    endsFrame d fd = true ↔ fd.last = true ∧ d.abandoned = false := by
  simp [endsFrame]

theorem State.endAnswerBlock_running {bd : AnswerData} {b : LocalAnswer} (running : s.localAnswer serial = some b) :
    s.endAnswerBlock serial bd = if bd.final = true then s.freeFloor.endAnswer b else s.freeFloor.handBlock b := by
  unfold State.endAnswerBlock
  have same : s.freeFloor.localAnswer serial = some b := running
  dsimp only
  rw [same]

/-! ## Local answers (R93, R94) -/

theorem State.isStale_iff (s : State) (i : Nat) :
    s.isStale i = true ↔ ∃ x : Span, s.buffer.span i = some x ∧ x.state = .stale := by
  unfold State.isStale
  cases s.buffer.span i <;> simp

/-- The state that a local answer settles the use of its span in, when it has ended. -/
theorem State.endAnswer_eq {b : LocalAnswer} {x : Span} (span : s.buffer.span b.span = some x) :
    s.endAnswer b = State.settleUse (State.putSpan
      { s with buffer := { s.buffer with answers := s.buffer.answers.filter (fun c => c.serial != b.serial) } }
      b.span { x with pins := x.pins - 1 }) b.span := by
  unfold State.endAnswer State.setPins
  dsimp only
  rw [show SpanBuffer.span { s.buffer with answers := s.buffer.answers.filter (fun c => c.serial != b.serial) } b.span
    = some x from span]

/-- A local answer hands over its next BD. -/
theorem State.handBlock_eq (s : State) (b : LocalAnswer) : s.handBlock b = { s with
    buffer := { s.buffer with answers := s.buffer.answers.map (fun c =>
      if c.serial = b.serial then
        { b with handed := b.handed + min 2 (b.count - b.handed), ready := some (s.answerBlock b) } else c) }
    tx := { s.tx with turns := if .answer b.serial ∈ s.tx.turns then s.tx.turns
                               else s.tx.turns ++ [.answer b.serial] } } := by
  unfold State.handBlock State.joinTurns
  dsimp only
  split
  · rename_i listed
    rw [if_pos (show .answer b.serial ∈ s.tx.turns from listed)]
    rfl
  · rename_i unlisted
    rw [if_neg (show .answer b.serial ∉ s.tx.turns from unlisted)]
    rfl

/-- Settles O54: the end of a clip, then each message in transmission, the next BD, and the end of an answer. -/
theorem transmissionEndsMoveTheWorkOn : Obligations.TransmissionEndsMoveTheWorkOn := by
  refine ⟨State.endOfClip_eq, fun s time => ?message, fun s b => ?block, fun s b x span => ?answer⟩
  case message =>
    intro v free floor frame block
    have ends {a b c : State} (e : v.endFloorMessage = a ∧ v.endLastSegment = b ∧ v.endSentBlock = c) :
        floor a ∧ frame b ∧ block c :=
      ⟨settled_congr e.1,
        settled_congr e.2.1,
        settled_congr e.2.2⟩
    refine ⟨rfl, fun idle => ends (State.ends_free (s := v) idle),
      fun m sending => ends (State.ends_control (s := v) sending),
      fun f sending => ends (State.ends_forwarded (s := v) sending), fun d fd sending => ?segment,
      fun serial bd b sending running => ?sent⟩
    case sent =>
      obtain ⟨floored, framed, blocked⟩ := ends (State.ends_answer (s := v) sending)
      rw [State.endAnswerBlock_running (s := v) running] at floored blocked
      refine ⟨framed, fun final => ?_, fun more => ?_⟩
      · rw [if_pos final] at floored blocked
        exact ⟨floored, blocked⟩
      · rw [if_neg (Bool.eq_false_iff.1 more)] at floored blocked
        exact ⟨floored, blocked⟩
    case segment =>
      obtain ⟨floored, framed, blocked⟩ := ends (State.ends_segment (s := v) sending)
      refine ⟨blocked, fun stays => ?_, fun last kept => ?_⟩
      · have goes_on : ¬ endsFrame d fd = true := fun ended => by
          obtain ⟨last, kept⟩ := (endsFrame_iff d fd).1 ended
          obtain more | abandoned := stays
          · rw [last] at more
            cases more
          · rw [kept] at abandoned
            cases abandoned
        rw [if_neg goes_on] at floored framed
        exact ⟨floored, framed⟩
      · intro u w st
        rw [if_pos ((endsFrame_iff d fd).2 ⟨last, kept⟩)] at floored framed
        have quiet : Quiet u (w.topUp d.handle) := u.quiet_toppedUp d.handle d.slot
        refine ⟨floored, framed, State.transmissionEnded_closing (s := u), State.transmissionEnded_priming (s := u),
          State.transmissionEnded_primed (s := u),
          fun running slots sending => State.transmissionEnded_bare (s := u) running
            ((Window.bare_iff _).2 ⟨slots, sending⟩),
          State.transmissionEnded_other (s := u), ?_⟩
        intro t filled
        have holds : ¬ (t.window d.handle).bare = true := fun bare => by
          obtain ⟨slots, sending⟩ := (Window.bare_iff _).1 bare
          exact filled.elim (· slots) (· sending)
        have played (playing : st = .playing) : u.transmissionEnded d.handle d.slot = t.settleWait d.handle :=
          (State.transmissionEnded_playing (s := u) playing).trans (if_neg holds)
        have record : (t.stream d.handle).state = st := congrArg Stream.state (quiet.stream d.handle)
        have cadence : t.cadence d.handle = s.cadence d.handle := quiet.cadence d.handle
        refine ⟨fun paused => (State.transmissionEnded_paused (s := u) paused).trans (if_neg holds),
          fun playing running => ?_, fun playing waiting => ?_⟩
        · rw [played playing]
          refine State.settleWait_running fun both => ?_
          rw [cadence, running] at both
          cases both.2
        · rw [played playing, ← show t.now = v.now from quiet.now]
          exact State.settleWait_waiting (record.trans playing) (by rw [cadence]; exact waiting)
  case block =>
    intro n final bytes
    refine ⟨s.answerBlock b, rfl, rfl, rfl, rfl, rfl, rfl, beq_iff_eq, ?_, fun whole => ?_, fun more => ?_,
      s.handBlock_eq b⟩
    · rw [← s.isStale_iff b.span]
      exact (Bool.and_eq_true _ _).to_iff.trans (and_congr beq_iff_eq Iff.rfl)
    · have flag : (b.handed + n == b.count) = true := beq_iff_eq.2 whole
      exact ⟨if_pos flag, if_pos flag⟩
    · have flag : ¬ (b.handed + n == b.count) = true := fun e => more (beq_iff_eq.1 e)
      exact ⟨if_neg flag, if_neg flag⟩
  case answer =>
    intro left p used
    have put : p.buffer.span b.span = some { x with pins := x.pins - 1 } := State.span_putSpan ..
    have unused : ¬ used ↔ x.refs = [] ∧ x.pins - 1 = 0 := by
      simp only [used, not_or, not_not]
      exact and_congr Iff.rfl (by omega)
    have ended : s.endAnswer b = p.settleUse b.span := State.endAnswer_eq span
    refine ⟨fun inUse settled => ?_, fun free valid => ?_, fun free stale => ?_⟩
    · obtain valid | stale := settled
      · exact ended.trans ((State.settleUse_valid put valid).trans (if_neg fun e => unused.2 e inUse))
      · exact ended.trans ((State.settleUse_stale put stale).trans (if_neg fun e => unused.2 e inUse))
    · exact ended.trans ((State.settleUse_valid put valid).trans (if_pos (unused.1 free)))
    · refine ended.trans ((State.settleUse_stale put stale).trans ((if_pos (unused.1 free)).trans ?_))
      exact State.freeSpan_putSpan ..

end Sys2Proof.Machine
end

section
/-! PROOFS. LINKS: what the loss of a link returns, ends and closes, and what a link that comes up needs. -/

namespace Sys2Proof.Machine

open Sys2Proof

variable {s t : State} {h : Handle}

/-! ## Notices in the array port -/

theorem ArrayControl.isNotice_iff (m : ArrayControl) :
    m.isNotice = true ↔ ∃ (n : Notice) (o : Bool), m = .mn n o := by
  cases m <;> simp [ArrayControl.isNotice]

theorem ArrayMessage.isNotice_iff (m : ArrayMessage) :
    m.isNotice = true ↔ ∃ (n : Notice) (o : Bool), m = .control (.mn n o) := by
  cases m <;> simp [ArrayMessage.isNotice, ArrayControl.isNotice_iff]

theorem State.noticeOut_iff (s : State) : s.noticeOut = true ↔ (∃ (n : Notice) (o : Bool), .mn n o ∈ s.array.control)
    ∨ ∃ (n : Notice) (o : Bool), s.array.sending = some (.control (.mn n o)) := by
  have queued : s.array.control.any ArrayControl.isNotice = true
      ↔ ∃ (n : Notice) (o : Bool), .mn n o ∈ s.array.control := by
    rw [List.any_eq_true]
    constructor
    · rintro ⟨m, listed, notice⟩
      obtain ⟨n, o, rfl⟩ := m.isNotice_iff.1 notice
      exact ⟨n, o, listed⟩
    · rintro ⟨n, o, listed⟩
      exact ⟨_, listed, rfl⟩
  have sent : s.array.sending.any ArrayMessage.isNotice = true
      ↔ ∃ (n : Notice) (o : Bool), s.array.sending = some (.control (.mn n o)) := by
    cases s.array.sending with
    | none => simp
    | some m => simp [ArrayMessage.isNotice_iff]
  unfold State.noticeOut
  rw [Bool.or_eq_true, queued, sent]

theorem State.strapsUsable_iff (s : State) : s.strapsUsable = true
    ↔ s.straps.station ≠ 0 ∧ s.straps.station ≠ 0xFFFF ∧ 0x0600 ≤ s.straps.etherType.toNat := by
  simp [State.strapsUsable, and_assoc]

/-! ## The overflow mark

Once set, it stays through the transitions and the samples: the actions leave the responder, and a notice that is handed
to it adds to its queue or sets the mark again. -/

/-- The overflow mark is kept. -/
def KeepsOverflow (s t : State) : Prop := s.responder.overflow = true → t.responder.overflow = true

namespace KeepsOverflow

theorem refl (s : State) : KeepsOverflow s s := id

theorem of_responder (e : t.responder = s.responder) : KeepsOverflow s t := fun marked => by rwa [e]

theorem trans {u : State} (a : KeepsOverflow s t) (b : KeepsOverflow t u) : KeepsOverflow s u := b ∘ a

theorem pushNotice (s : State) (n : Notice) : KeepsOverflow s (s.pushNotice n) := by
  unfold State.pushNotice
  split
  · exact id
  · exact fun _ => rfl

theorem applyRule (r : RuleNumber) (act : ShedAction) (l : List Handle) :
    ∀ s : State, KeepsOverflow s (s.applyRule r act l) := by
  induction l with
  | nil => exact refl
  | cons h l ih =>
    intro s
    have acted := (ActsOn.refl (h := h) (s.setStream h ((s.stream h).addMark r))).shedAct act
    exact (of_responder (acted.responder.trans rfl)).trans (ih _)

theorem evaluate (l : List RuleNumber) : ∀ s : State, KeepsOverflow s (s.evaluate l) := by
  induction l with
  | nil => exact refl
  | cons r l ih =>
    intro s
    unfold State.evaluate
    split
    · exact ((pushNotice (s.setRule r .tripped) _).trans (applyRule r _ _ _)).trans (ih _)
    · exact ih s

theorem transition (s : State) (src : Source) : KeepsOverflow s (s.transition src) := evaluate _ s

theorem transitionAll (l : List Source) : ∀ s : State, KeepsOverflow s (s.transitionAll l) := by
  induction l with
  | nil => exact refl
  | cons x l ih => exact fun s => (transition s x).trans (ih _)

theorem transitions (s : State) (l : List Source) : KeepsOverflow s (s.transitions l) := by
  unfold State.transitions
  split
  · exact transitionAll _ s
  · exact transitionAll _ { s with choices := s.choices + 1 }

theorem sampleTags (s : State) : KeepsOverflow s s.sampleTags :=
  transitions { s with pressure := { s.pressure with
    tags := s.pressure.tags.sample s.tables.active.shed.tags s.issuedCount } } _

theorem returnIssued (s : State) : KeepsOverflow s s.returnIssued := by
  have released : KeepsOverflow s (s.releaseAll s.buffer.issued) :=
    of_responder ((Quiet.refl s).releaseAll _).responder
  have sampled : KeepsOverflow (s.releaseAll s.buffer.issued)
      ((s.releaseAll s.buffer.issued).sampleAfter s.buffer.issued) := by
    unfold State.sampleAfter
    split
    · exact refl _
    · exact sampleTags _
  exact (released.trans sampled).trans (of_responder ((Quiet.refl _).requeueAll _).responder)

end KeepsOverflow

/-! ## Local answers that run -/

/-- The running local answers are the same. -/
def SameAnswers (s t : State) : Prop := t.buffer.answers = s.buffer.answers

namespace SameAnswers

theorem refl (s : State) : SameAnswers s s := rfl

theorem trans {u : State} (a : SameAnswers s t) (b : SameAnswers t u) : SameAnswers s u := Eq.trans b a

theorem take {b c : SpanBuffer} {i : Nat} (e : b.take = some (i, c)) : c.answers = b.answers := by
  unfold SpanBuffer.take at e
  split at e
  · cases e
    rfl
  · split at e
    · cases e
      rfl
    · split at e
      · cases e
        rfl
      · cases e

theorem allocate {k : Key} {refs : List Referrer} {i : Nat} (e : s.allocate k refs = some (i, t)) :
    SameAnswers s t := by
  unfold State.allocate at e
  split at e
  · cases e
  · rename_i b taken
    cases e
    have same := take taken
    exact same

theorem nameSpan (k : Key) (span : Option Nat) (l : List Referrer) :
    ∀ s : State, SameAnswers s (s.nameSpan k span l) := by
  induction l with
  | nil => exact refl
  | cons r l ih => exact fun s => ih (s.mapSlot r.handle r.slot fun x => x.name k span)

theorem serveKeys (l : List WaitingKey) : ∀ s : State, SameAnswers s (s.serveKeys l) := by
  induction l with
  | nil => exact fun s => rfl
  | cons w l ih =>
    intro s
    unfold State.serveKeys
    split
    · rfl
    · rename_i e
      exact ((allocate e).trans (nameSpan _ _ _ _)).trans (ih _)

theorem settleUse (s : State) (i : Nat) : SameAnswers s (s.settleUse i) := by
  have freed : SameAnswers s (s.freeSpan i) := serveKeys _ { s with buffer := _ }
  have rests : SameAnswers s (s.restSpan i) := serveKeys _ { s with buffer := _ }
  unfold State.settleUse
  split
  · rfl
  · split
    · split
      · exact rests
      · rfl
    · split
      · exact freed
      · rfl
    · split
      · split
        · exact freed
        · exact freed
        · rfl
      · rfl

theorem detachKeys (h : Handle) (serial : Nat) (l : List Key) :
    ∀ s : State, SameAnswers s (s.detachKeys h serial l) := by
  have one (s : State) (k : Key) : SameAnswers s (s.detachKey h serial k) := by
    unfold State.detachKey State.detachSpan
    split
    · split
      · rfl
      · split
        · exact settleUse (s.putSpan _ _) _
        · rfl
    · rfl
  induction l with
  | nil => exact refl
  | cons k l ih => exact fun s => (one s k).trans (ih _)

theorem detachSlot (s : State) (h : Handle) (serial : Nat) : SameAnswers s (s.detachSlot h serial) := by
  unfold State.detachSlot
  split
  · rfl
  · exact detachKeys h serial _ s

theorem detachSlots (h : Handle) (l : List Nat) : ∀ s : State, SameAnswers s (s.detachSlots h l) := by
  induction l with
  | nil => exact refl
  | cons serial l ih => exact fun s => (detachSlot s h serial).trans (ih _)

theorem closeAtOnce (s : State) (h : Handle) : SameAnswers s (s.closeAtOnce h) := by
  cases live : (s.stream h).live with
  | false =>
    rw [State.closeAtOnce_dead live]
    rfl
  | true =>
    rw [State.closeAtOnce_live live]
    have detached : SameAnswers s (((s.abandonFrames h).detachSending h).detachWindow h) :=
      SameAnswers.trans (s := s) (detachSlots h _ (s.abandonFrames h)) (detachSlots h _ _)
    generalize ((s.abandonFrames h).detachSending h).detachWindow h = p at detached
    have placed := OnlyPlaces.notifyOwner (p.clearRecord h) (s.stream h).owner h .reset
    have buffer : ((p.clearRecord h).notifyOwner (s.stream h).owner h .reset).buffer = p.buffer := by
      rw [placed.rest]
      rfl
    exact detached.trans (congrArg SpanBuffer.answers buffer)

theorem closeAll (l : List Handle) : ∀ s : State, SameAnswers s (l.foldl State.closeAtOnce s) := by
  induction l with
  | nil => exact refl
  | cons h l ih => exact fun s => (closeAtOnce s h).trans (ih _)

end SameAnswers

/-- The end of a local answer takes those of its serial number off the list. -/
theorem State.answers_endAnswer (s : State) (a : LocalAnswer) :
    (s.endAnswer a).buffer.answers = s.buffer.answers.filter (fun b => b.serial != a.serial) := by
  unfold State.endAnswer State.setPins
  dsimp only
  split
  · exact SameAnswers.settleUse ..
  · exact SameAnswers.settleUse ..

theorem State.answers_endAnswers (l : List LocalAnswer) : ∀ s : State, ∀ b ∈ (l.foldl State.endAnswer s).buffer.answers,
    b ∈ s.buffer.answers ∧ ∀ a ∈ l, b.serial ≠ a.serial := by
  induction l with
  | nil => exact fun s b running => ⟨running, nofun⟩
  | cons a l ih =>
    intro s b running
    obtain ⟨left, others⟩ := ih (s.endAnswer a) b running
    rw [State.answers_endAnswer, List.mem_filter] at left
    refine ⟨left.1, fun c listed => ?_⟩
    obtain rfl | listed := List.mem_cons.1 listed
    · exact bne_iff_ne.1 left.2
    · exact others c listed

/-- Ending every local answer leaves none. -/
theorem State.answers_endAll (s : State) : (s.buffer.answers.foldl State.endAnswer s).buffer.answers = [] := by
  refine List.eq_nil_iff_forall_not_mem.2 fun b running => ?_
  obtain ⟨listed, others⟩ := State.answers_endAnswers s.buffer.answers s b running
  exact others b listed rfl

theorem Quiet.endAnswers (l : List LocalAnswer) : ∀ s : State, Quiet s (l.foldl State.endAnswer s) := by
  have one (s : State) (a : LocalAnswer) : Quiet s (s.endAnswer a) := by
    have start : Quiet s { s with buffer := { s.buffer with
        answers := s.buffer.answers.filter (fun b => b.serial != a.serial) } } := { Quiet.refl s with }
    exact (start.setPins a.span _).settleUse a.span
  induction l with
  | nil => exact Quiet.refl
  | cons a l ih => exact fun s => (one s a).change (ih _)

/-! ## The floor transmitter while its link is DOWN -/

/-- The floor link is DOWN and no frame is on its way. -/
structure FloorSilent (s : State) : Prop where
  down    : s.floor.linkUp = false
  queue   : s.tx.queue = []
  current : s.tx.current = none
  sending : s.tx.sending = none

theorem FloorTransmitter.abandon_idle {x : FloorTransmitter} (queue : x.queue = []) (current : x.current = none)
    (sending : x.sending = none) : x.abandon h = x := by
  unfold FloorTransmitter.abandon
  rw [queue, current, sending]
  obtain ⟨⟩ := x
  subst queue current sending
  rfl

theorem State.notifyOwner_down (down : s.floor.linkUp = false) (owner : Option Half) (h : Handle) (reason : Reason) :
    s.notifyOwner owner h reason = s := by
  unfold State.notifyOwner
  split
  · exact State.notifyTo_down down ..
  · rfl

theorem FloorSilent.closeAtOnce (silent : FloorSilent s) (h : Handle) :
    (s.closeAtOnce h).tx = s.tx ∧ (s.closeAtOnce h).floor = s.floor := by
  cases live : (s.stream h).live with
  | false =>
    rw [State.closeAtOnce_dead live]
    exact ⟨rfl, rfl⟩
  | true =>
    rw [State.closeAtOnce_live live]
    have detached : Quiet (s.abandonFrames h) (((s.abandonFrames h).detachSending h).detachWindow h) :=
      ((Quiet.refl _).detachSending h).detachWindow h
    generalize ((s.abandonFrames h).detachSending h).detachWindow h = p at detached
    rw [State.abandonFrames_eq, FloorTransmitter.abandon_idle silent.queue silent.current silent.sending] at detached
    rw [State.notifyOwner_down (s := p.clearRecord h) (detached.floor ▸ silent.down)]
    exact ⟨detached.tx, detached.floor⟩

theorem FloorSilent.closeAll (l : List Handle) :
    ∀ s : State, FloorSilent s → (l.foldl State.closeAtOnce s).tx = s.tx := by
  induction l with
  | nil => exact fun _ _ => rfl
  | cons h l ih =>
    intro s silent
    obtain ⟨tx, floor⟩ := silent.closeAtOnce h
    have still : FloorSilent (s.closeAtOnce h) := ⟨by rw [floor]; exact silent.down, by rw [tx]; exact silent.queue,
      by rw [tx]; exact silent.current, by rw [tx]; exact silent.sending⟩
    exact (ih _ still).trans tx

/-! ## Records that return (R117) -/

theorem SpanBuffer.mem_issued (b : SpanBuffer) (i : Nat) : i ∈ b.issued
    ↔ ∃ (x : Span) (f : Fetch) (tag : TagIndex), (i, x) ∈ b.spans ∧ x.state = .filling f ∧ f.tag = some tag := by
  unfold SpanBuffer.issued
  simp only [List.mem_map, List.mem_filter]
  constructor
  · rintro ⟨⟨j, x⟩, ⟨listed, held⟩, rfl⟩
    cases fetch : x.fetch with
    | none => simp [fetch] at held
    | some f =>
      simp only [fetch, Option.isSome_iff_exists] at held
      obtain ⟨tag, held⟩ := held
      exact ⟨x, f, tag, listed, Span.fetch_eq_some_iff.1 fetch, held⟩
  · rintro ⟨x, f, tag, listed, filling, held⟩
    refine ⟨(i, x), ⟨listed, ?_⟩, rfl⟩
    simp [Span.fetch_eq_some_iff.2 filling, held]

theorem State.returnIssued_none (idle : s.buffer.issued = []) : s.returnIssued = s := by
  unfold State.returnIssued
  rw [idle]
  rfl

theorem State.returnIssued_some (busy : s.buffer.issued ≠ []) : s.returnIssued
    = s.buffer.issued.foldl (fun q i => q.requeue false i) (s.buffer.issued.foldl State.release s).sampleTags := by
  unfold State.returnIssued State.sampleAfter
  dsimp only
  rw [if_neg fun empty => busy (List.isEmpty_iff.1 empty), State.releaseAll_eq_foldl, State.requeueAll_eq_foldl]

/-! ## The link events -/

theorem exec_linkPartnerFlowControl (time : Nat) (port : Port) (holding : Bool) :
    exec (.linkPartnerFlowControl time port holding) s
      = .next (if (s.stamp time).linkUp port = true then (s.stamp time).setPartner port holding
          else s.stamp time).settle := rfl

theorem exec_arrayLinkUp (time : Nat) : exec (.arrayLinkUp time) s = .next (s.stamp time).raiseArray.settle := rfl

theorem exec_floorLinkUp (time : Nat) : exec (.floorLinkUp time) s = .next (s.stamp time).raiseFloor.settle := rfl

theorem exec_arrayLinkDown (time : Nat) : exec (.arrayLinkDown time) s
    = .next (if (s.stamp time).array.linkUp = true then (s.stamp time).loseArray else s.stamp time).settle := rfl

theorem exec_floorLinkDown (time : Nat) : exec (.floorLinkDown time) s
    = .next (if (s.stamp time).floor.linkUp = true then (s.stamp time).loseFloor else s.stamp time).settle := rfl

/-- Settles O55: each link event by the link's state, and the records that the loss of the array link returns. -/
theorem linksGoDownAndComeUp : Obligations.LinksGoDownAndComeUp := by
  refine ⟨fun s time => ?events, fun s => ?returned, fun s i x f span filling => ?record⟩
  case returned =>
    exact ⟨s.buffer.mem_issued, State.returnIssued_none, State.returnIssued_some⟩
  case record =>
    exact ⟨fun tag held => State.release_known span filling held, fun used => State.requeue_wanted span filling used,
      fun unused => State.requeue_unwanted span unused false⟩
  case events =>
    intro v
    refine ⟨fun holding => ⟨fun up => ?_, fun up => ?_, fun p down => ?_⟩, s.strapsUsable_iff, s.noticeOut_iff,
      fun usable => ⟨?_, ?_⟩, fun unusable => ⟨?_, ?_⟩, fun down => ?_, fun down => ?_, fun up => ?array,
      fun up => ?floor⟩
    · rw [exec_linkPartnerFlowControl, if_pos (show v.linkUp .array = true from up)]
      rfl
    · rw [exec_linkPartnerFlowControl, if_pos (show v.linkUp .floor = true from up)]
      rfl
    · rw [exec_linkPartnerFlowControl, if_neg (Bool.eq_false_iff.1 (show v.linkUp p = false from down))]
    · exact settled_congr (if_pos usable)
    · exact settled_congr (if_pos usable)
    · exact settled_congr (if_neg (Bool.eq_false_iff.1 unusable))
    · exact settled_congr (if_neg (Bool.eq_false_iff.1 unusable))
    · exact settled_congr (if_neg (Bool.eq_false_iff.1 down))
    · exact settled_congr (if_neg (Bool.eq_false_iff.1 down))
    case array =>
      intro u cut
      have left : u = (State.setQuiesce { cut with array := { cut.array with quiesce := s.array.quiesce } }
        .opened).returnIssued := rfl
      have quiesced (was : s.array.quiesce = .quiesced) : u = (cut.transition .quiesced).returnIssued := by
        rw [left, State.setQuiesce_of_changed]
        rw [was]
        simp
      have other (was : s.array.quiesce ≠ .quiesced) : u = cut.returnIssued := by
        rw [left, State.setQuiesce_of_same]
        simp [was]
      have kept : Keeps cut u ∧ KeepsOverflow cut u := by
        by_cases was : s.array.quiesce = .quiesced
        · rw [quiesced was]
          exact ⟨((Keeps.refl cut).transition .quiesced).returnIssued,
            (KeepsOverflow.transition cut .quiesced).trans (KeepsOverflow.returnIssued _)⟩
        · rw [other was]
          exact ⟨(Keeps.refl cut).returnIssued, KeepsOverflow.returnIssued cut⟩
      obtain ⟨kept, marked⟩ := kept
      refine ⟨settled_congr (if_pos up), quiesced, other, kept.array, kept.floor,
        kept.waiting, fun lost => marked ?_, kept.tables, kept.memory⟩
      exact (congrArg (s.responder.overflow || ·) lost).trans (Bool.or_true _)
    case floor =>
      intro u down
      let ended := s.buffer.answers.foldl State.endAnswer down
      have closed : u = (List.finRange 128).foldl State.closeAtOnce ended := by
        have lost : u = (down.abandonAnswers s.buffer.answers).closeAll handles := rfl
        rw [lost, State.closeAll_eq_foldl, State.abandonAnswers_eq_foldl]
        rfl
      have kept : Keeps down u := ((Keeps.refl down).abandonAnswers s.buffer.answers).closeAll handles
      have quiet : Quiet down ended := Quiet.endAnswers s.buffer.answers down
      have silent : FloorSilent ended := ⟨by rw [quiet.floor], by rw [quiet.tx], by rw [quiet.tx], by rw [quiet.tx]⟩
      refine ⟨settled_congr (if_pos up), closed, kept.floor, kept.array, ?_, ?_,
        fun h => ?_, kept.tables, kept.memory⟩
      · rw [closed, FloorSilent.closeAll _ ended silent, quiet.tx]
      · rw [closed]
        have same : SameAnswers ended _ := SameAnswers.closeAll (List.finRange 128) ended
        exact Eq.trans same (State.answers_endAll down)
      · rw [closed]
        exact State.closeAll_closed _ ended h (.inl (List.mem_finRange h))

end Sys2Proof.Machine
end

section
/-! PROOFS. SHED RULES: a trip and the streams it reaches, transitions and samples, and the three actions. -/

namespace Sys2Proof.Machine

open Sys2Proof

variable {s : State} {h : Handle}

/-! ## A trip (R169, R170) -/

theorem State.inClass_iff (s : State) (r : RuleNumber) (station : Option Half) : s.inClass r station = true
    ↔ ∃ (o : Half) (e : StationEntry), station = some o ∧ s.tables.active.station o = some e
      ∧ (s.rule r).classes.getLsbD e.shedClass = true := by
  unfold State.inClass
  cases station with
  | none => simp
  | some o => cases found : s.tables.active.station o <;> simp [found]

theorem State.reaches_iff (s : State) (r : RuleNumber) (x : Stream) : s.reaches r x = true
    ↔ x.state ≠ .closed ∧ x.state ≠ .faulted ∧ ∃ (o : Half) (e : StationEntry),
      x.owner = some o ∧ s.tables.active.station o = some e ∧ (s.rule r).classes.getLsbD e.shedClass = true := by
  rw [← s.inClass_iff r x.owner]
  simp [State.reaches, Stream.live, and_assoc]

theorem State.applyRule_eq_foldl (r : RuleNumber) (act : ShedAction) (l : List Handle) : ∀ s : State,
    s.applyRule r act l = l.foldl (fun (w : State) h =>
      State.shedAct (w.setStream h { w.stream h with marks := (w.stream h).marks ||| (1#4 <<< r.1) }) act h) s := by
  induction l with
  | nil => exact fun _ => rfl
  | cons h l ih => exact fun s => ih _

/-- A rule applied to streams marks each of them, and leaves the other records, the rules and the responder. -/
theorem State.applyRule_marks (r : RuleNumber) (act : ShedAction) (l : List Handle) (once : l.Nodup) : ∀ s : State,
    (∀ h : Handle, h ∈ l → ((s.applyRule r act l).stream h).marks = (s.stream h).marks ||| (1#4 <<< r.1))
    ∧ (∀ h : Handle, h ∉ l → (s.applyRule r act l).stream h = s.stream h)
    ∧ (s.applyRule r act l).responder = s.responder := by
  induction l with
  | nil => exact fun s => ⟨nofun, fun _ _ => rfl, rfl⟩
  | cons k l ih =>
    intro s
    obtain ⟨absent, once⟩ := List.nodup_cons.1 once
    have acted := (ActsOn.refl (h := k) (s.setStream k ((s.stream k).addMark r))).shedAct act
    have unapplied {h : Handle} (other : h ≠ k) :
        ((s.setStream k ((s.stream k).addMark r)).shedAct act k).stream h = s.stream h :=
      (acted.others h other).trans (s.stream_setStream_of_ne (Ne.symm other) _)
    obtain ⟨marked, left, responder⟩ := ih once ((s.setStream k ((s.stream k).addMark r)).shedAct act k)
    refine ⟨fun h listed => ?_, fun h unlisted => ?_, responder.trans acted.responder⟩
    · by_cases e : h = k
      · subst e
        refine (congrArg Stream.marks (left h absent)).trans (acted.marks.trans ?_)
        rw [State.stream_setStream]
        rfl
      · rw [← unapplied e]
        exact marked h ((List.mem_cons.1 listed).resolve_left e)
    · have apart : h ≠ k ∧ h ∉ l := by simpa using unlisted
      exact (left h apart.2).trans (unapplied apart.1)

theorem State.pushNotice_room (n : Notice) (room : s.responder.notices.length < 32) :
    s.pushNotice n = { s with responder := { s.responder with notices := s.responder.notices ++ [n] } } := by
  unfold State.pushNotice
  exact if_pos room

theorem State.pushNotice_full (n : Notice) (full : 32 ≤ s.responder.notices.length) :
    s.pushNotice n = { s with responder := { s.responder with overflow := true } } := by
  unfold State.pushNotice
  exact if_neg (Nat.not_lt.2 full)

theorem State.stream_pushNotice (s : State) (n : Notice) (h : Handle) : (s.pushNotice n).stream h = s.stream h := by
  unfold State.pushNotice
  split <;> rfl

/-- The streams that a rule reaches. -/
def State.streamsReached (s : State) (r : RuleNumber) : List Handle :=
  handles.filter (fun h => s.reaches r (s.stream h))

theorem State.mem_streamsReached (s : State) (r : RuleNumber) (h : Handle) :
    h ∈ s.streamsReached r ↔ s.reaches r (s.stream h) = true := by
  unfold State.streamsReached
  rw [List.mem_filter]
  exact and_iff_right (List.mem_finRange h)

theorem State.streamsReached_nodup (s : State) (r : RuleNumber) : (s.streamsReached r).Nodup :=
  (List.nodup_finRange 128).filter _

/-- The streams reached and the rule itself are read as they stand before the trip. -/
theorem State.trip_eq (s : State) (r : RuleNumber) : s.trip r
    = ((s.setRule r .tripped).pushNotice (.shedTripped r (s.rule r).source)).applyRule r (s.rule r).action
      (s.streamsReached r) := by
  unfold State.trip
  have noticed : ∀ n : Notice, ((s.setRule r .tripped).pushNotice n).rule r = s.rule r
      ∧ handles.filter (fun h => ((s.setRule r .tripped).pushNotice n).reaches r
        (((s.setRule r .tripped).pushNotice n).stream h)) = s.streamsReached r := by
    intro n
    unfold State.pushNotice
    split
    · exact ⟨rfl, rfl⟩
    · exact ⟨rfl, rfl⟩
  dsimp only
  obtain ⟨rule, reached⟩ := noticed (.shedTripped r ((s.setRule r .tripped).rule r).source)
  exact congrArg₂ (fun x l => State.applyRule _ r (ShedRule.action x) l) rule reached

/-! ## Transitions (R169) -/

theorem State.transition_eq_foldl (s : State) (src : Source) : s.transition src
    = ([0, 1, 2, 3] : List RuleNumber).foldl (fun (w : State) r =>
      if (s.rule r).source = src ∧ w.ruleState r = .armed ∧ s.level src = (s.rule r).level then w.trip r else w) s := by
  unfold State.transition
  rw [State.evaluate_eq_foldl s _ s fun _ => Iff.rfl, List.foldl_filter]
  refine congrArg (fun f => List.foldl f s ruleNumbers) ?_
  funext w r
  by_cases own : (s.rule r).source = src
  · subst own
    simp only [beq_self_eq_true, if_true, true_and]
  · simp [own]

theorem State.evaluate_of_unarmed (l : List RuleNumber) (unarmed : ∀ r ∈ l, ¬ (s.ruleState r = .armed ∧ s.Matches r)) :
    s.evaluate l = s := by
  induction l with
  | nil => rfl
  | cons r l ih =>
    unfold State.evaluate
    rw [if_neg (unarmed r (List.mem_cons_self ..))]
    exact ih fun q listed => unarmed q (List.mem_cons_of_mem _ listed)

theorem State.mem_rulesOf (s : State) (src : Source) (r : RuleNumber) :
    r ∈ ruleNumbers.filter (fun r => (s.rule r).source == src) ↔ (s.rule r).source = src := by
  rw [List.mem_filter, beq_iff_eq]
  exact and_iff_right (mem_ruleNumbers r)

theorem State.transition_of_unmatched (src : Source)
    (unmatched : ∀ r : RuleNumber, s.ruleState r = .armed → (s.rule r).source = src → s.level src ≠ (s.rule r).level) :
    s.transition src = s :=
  State.evaluate_of_unarmed _ fun r listed ⟨armed, reached⟩ => by
    have own := (s.mem_rulesOf src r).1 listed
    exact unmatched r armed own (own ▸ reached)

theorem State.ruleState_transition (s : State) (src : Source) (r : RuleNumber) : (s.transition src).ruleState r
    = if (s.rule r).source = src ∧ s.ruleState r = .armed ∧ s.level src = (s.rule r).level then .tripped
      else s.ruleState r := by
  unfold State.transition
  rw [State.ruleState_evaluate]
  refine if_congr ?_ rfl rfl
  rw [s.mem_rulesOf src r]
  exact and_congr_right fun own => by rw [State.Matches, own]

/-! ## Samples (R119, R163) -/

/-- The transitions of one event are those of the sources it has moved, in some order. -/
theorem State.transitions_ordered (s : State) {moved : List Source} (once : moved.Nodup) (free : .quiesced ∉ moved) :
    ∃ (l : List Source) (n : Nat), l.Nodup ∧ (∀ x : Source, x ∈ l ↔ x ∈ moved)
      ∧ s.transitions moved = l.foldl State.transition { s with choices := n } := by
  unfold State.transitions
  split
  · exact ⟨moved, s.choices, once, fun _ => Iff.rfl, State.transitionAll_eq_foldl ..⟩
  · refine ⟨_, s.choices + 1, ?_, fun x => ?_, State.transitionAll_eq_foldl ..⟩
    · have ordered : ∀ n : Fin 6, (sourceOrder n).Nodup := by decide
      exact (ordered _).filter _
    · rw [List.mem_filter, List.contains_iff_mem]
      refine and_iff_right_of_imp fun listed => ?_
      have whole : ∀ n : Fin 6, ∀ x : Source, x ≠ .quiesced → x ∈ sourceOrder n := by
        intro n x
        cases x <;> revert n <;> decide
      exact whole _ x fun e => free (e ▸ listed)

/-- The comparators that have changed level. -/
def movedSources (p q : PressureMonitor) : List Source :=
  (if q.lat1.level = p.lat1.level then [] else [Source.lat1])
    ++ (if q.lat2.level = p.lat2.level then [] else [Source.lat2])
    ++ (if q.tags.level = p.tags.level then [] else [Source.tags])

theorem movedSources_nodup (p q : PressureMonitor) : (movedSources p q).Nodup := by
  unfold movedSources
  split <;> split <;> split <;> decide

theorem mem_movedSources (p q : PressureMonitor) : (.lat1 ∈ movedSources p q ↔ q.lat1.level ≠ p.lat1.level)
    ∧ (.lat2 ∈ movedSources p q ↔ q.lat2.level ≠ p.lat2.level)
    ∧ (.tags ∈ movedSources p q ↔ q.tags.level ≠ p.tags.level) ∧ .quiesced ∉ movedSources p q := by
  simp [movedSources]

theorem State.sampleCompletion_eq (s : State) (service : Nat) {q : PressureMonitor}
    (e : q = { lat1 := s.pressure.lat1.sample s.tables.active.shed.lat1 service
               lat2 := s.pressure.lat2.sample s.tables.active.shed.lat2 service
               tags := s.pressure.tags.sample s.tables.active.shed.tags s.issuedCount }) :
    s.sampleCompletion service = State.transitions { s with pressure := q } (movedSources s.pressure q) := by
  subst e
  rfl

/-! ## The actions (R171 to R173) -/

theorem State.shedPause_other (playing : (s.stream h).state ≠ .playing) (priming : (s.stream h).state ≠ .priming) :
    s.shedPause h = s := by
  unfold State.shedPause
  cases e : (s.stream h).state with
  | playing => exact absurd e playing
  | priming => exact absurd e priming
  | _ => rfl

theorem State.shedPause_playing (playing : (s.stream h).state = .playing) :
    s.shedPause h = s.pauseFor h .shed .pausedShed := by
  unfold State.shedPause
  rw [playing]

theorem State.shedPause_priming (priming : (s.stream h).state = .priming) : s.shedPause h
    = (s.setStream h { s.stream h with autoplay := false }).pauseFor h .shed .pausedShed := by
  unfold State.shedPause
  rw [priming]

section Depth

variable {k : Clip}

theorem State.reserve_of_boundClip {r : Stream} (clip : s.boundClip r = some k) (open_ : r.state ≠ .closed)
    (sound : r.state ≠ .faulted) : (s.setStream h r).reserve h = s.setStream h { r with
      reservation := r.effDepth
        * (if r.state = .negotiating then max (k.bound .primary) (k.bound .proxy) else k.bound r.rendition) } := by
  have bound : (s.setStream h r).boundClip r = some k := clip
  unfold State.reserve State.reservationOf
  rw [State.stream_setStream, bound, State.setStream_setStream]
  dsimp only
  rw [reservationFor_live open_ sound]

theorem State.shallow_none
    (stays : (s.stream h).state = .closing ∨ (s.stream h).effDepth = max 1 ((s.stream h).depth / 2)) :
    s.shallow h = s := by
  unfold State.shallow
  exact if_pos stays

theorem State.shallow_acts (closing : (s.stream h).state ≠ .closing)
    (deeper : (s.stream h).effDepth ≠ max 1 ((s.stream h).depth / 2)) : s.shallow h
      = ((((s.setStream h { s.stream h with effDepth := max 1 ((s.stream h).depth / 2) }).reserve h).reduceWindow
        h).notify h .shallowed).reportPriming h := by
  unfold State.shallow
  exact if_neg fun either => either.elim closing deeper

theorem State.demote_none (clip : s.boundClip (s.stream h) = some k)
    (stays : (s.stream h).state = .closing ∨ (s.stream h).rendition = .proxy ∨ k.proxy = none) : s.demote h = s := by
  unfold State.demote
  dsimp only
  rw [clip]
  exact if_pos stays

section Demoted

variable {q : RenditionRecord} (clip : s.boundClip (s.stream h) = some k) (closing : (s.stream h).state ≠ .closing)
  (primary : (s.stream h).rendition = .primary) (proxy : k.proxy = some q)

include clip closing primary proxy

theorem State.demote_negotiating (negotiating : (s.stream h).state = .negotiating) : s.demote h
    = (s.setStream h { s.stream h with demoted := true }).endNegotiation h .proxy .demoted := by
  unfold State.demote
  dsimp only
  rw [clip]
  dsimp only
  rw [if_neg (by rw [primary, proxy]; simp [closing]), if_pos negotiating]

theorem State.demote_refused (other : (s.stream h).state ≠ .negotiating)
    (refused : (s.stream h).reservation < reservationFor (s.stream h).state (s.stream h).effDepth .proxy k
      ∧ s.fits (s.stream h).reservation (reservationFor (s.stream h).state (s.stream h).effDepth .proxy k) = false) :
    s.demote h = s := by
  unfold State.demote
  dsimp only
  rw [clip]
  dsimp only
  rw [if_neg (by rw [primary, proxy]; simp [closing]), if_neg other, if_pos refused]

theorem State.demote_acts (other : (s.stream h).state ≠ .negotiating)
    (fits : ¬ ((s.stream h).reservation < reservationFor (s.stream h).state (s.stream h).effDepth .proxy k
      ∧ s.fits (s.stream h).reservation (reservationFor (s.stream h).state (s.stream h).effDepth .proxy k) = false)) :
    s.demote h = ((((s.setStream h { s.stream h with
      rendition := .proxy, reservation := reservationFor (s.stream h).state (s.stream h).effDepth .proxy k
      demoted := true }).rebuild h).notify h .demoted).windowChanged h) := by
  unfold State.demote
  dsimp only
  rw [clip]
  dsimp only
  rw [if_neg (by rw [primary, proxy]; simp [closing]), if_neg other, if_neg fits]

end Demoted

end Depth

/-! ## The window of a shallow stream (R71) -/

theorem State.reduceWindow_fits
    (fits : (s.window h).slots.length + (s.window h).sending.length ≤ (s.stream h).effDepth ∨ (s.window h).slots = []) :
    s.reduceWindow h = s := by
  have kept : (s.window h).slots.drop
      ((s.window h).slots.length - ((s.window h).count - (s.stream h).effDepth)) = [] := by
    rw [List.drop_eq_nil_iff]
    unfold Window.count
    obtain fits | empty := fits
    · omega
    · rw [empty]
      exact Nat.zero_le _
  unfold State.reduceWindow
  dsimp only
  rw [kept]

theorem State.reduceWindow_tail {kept tail : List Slot} {y : Slot} (slots : (s.window h).slots = kept ++ y :: tail)
    (length : kept.length = (s.stream h).effDepth - (s.window h).sending.length) :
    s.reduceWindow h = (s.detachSlots h ((y :: tail).reverse.map Slot.serial)).setCursor h (some y.frame) := by
  have place : (s.window h).slots.length - ((s.window h).count - (s.stream h).effDepth) = kept.length := by
    unfold Window.count
    rw [slots, List.length_append, List.length_cons]
    omega
  unfold State.reduceWindow
  dsimp only
  rw [place, slots, List.drop_left, List.map_reverse]

/-- Settles O60: a trip stream by stream, a transition rule by rule, the samples, and the actions by the stream's
state. -/
theorem trippedRulesMarkTheStreamsTheyReach : Obligations.TrippedRulesMarkTheStreamsTheyReach := by
  refine ⟨fun s r => ?trip,
    fun s src => ⟨s.transition_eq_foldl src, fun r own armed level => ?trips, fun r untripped => ?stays⟩,
    fun s => ?samples, fun s r => ⟨?order, fun n => ⟨State.pushNotice_room n, State.pushNotice_full n⟩⟩,
    fun s h => ?pause, fun s h k clip open_ sound => ?actions,
    fun s h => ⟨State.reduceWindow_fits, fun kept y tail => State.reduceWindow_tail⟩⟩
  case trip =>
    intro u note
    obtain ⟨marked, left, responder⟩ := State.applyRule_marks r (s.rule r).action (s.streamsReached r)
      (s.streamsReached_nodup r) ((s.setRule r .tripped).pushNotice note)
    rw [← s.trip_eq r] at marked left responder
    refine ⟨(s.ruleState_trip r r).trans (if_pos rfl), fun q other => (s.ruleState_trip r q).trans (if_neg other),
      fun room => ?_, fun full => ?_, fun h => ?_, fun src => s.transition_of_unmatched src⟩
    · rw [responder, State.pushNotice_room (s := s.setRule r .tripped) note room]
      rfl
    · rw [responder, State.pushNotice_full (s := s.setRule r .tripped) note full]
      exact ⟨rfl, rfl⟩
    · have listed := (s.mem_streamsReached r h).trans (s.reaches_iff r (s.stream h))
      refine ⟨fun reached => (marked h (listed.2 reached)).trans ?_, fun away => (left h (mt listed.1 away)).trans ?_⟩
      · rw [State.stream_pushNotice]
        rfl
      · rw [State.stream_pushNotice]
        rfl
  case trips => exact (s.ruleState_transition src r).trans (if_pos ⟨own, armed, level⟩)
  case stays =>
    refine (s.ruleState_transition src r).trans (if_neg fun ⟨own, armed, level⟩ => ?_)
    obtain other | idle | apart := untripped
    · exact other own
    · exact idle armed
    · exact apart level
  case order => exact (s.trip_eq r).trans (State.applyRule_eq_foldl ..)
  case pause =>
    refine ⟨State.shedPause_playing, fun priming => (State.shedPause_priming priming).trans ?_, State.shedPause_other⟩
    unfold State.pauseFor
    rw [State.stream_setStream, State.setStream_setStream]
  case samples =>
    intro p shed issued tags one
    have count : s.issuedCount = issued := by
      unfold State.issuedCount SpanBuffer.countSpans
      refine congrArg List.length (List.filter_congr fun e _ => ?_)
      dsimp only
      unfold Span.fetch
      cases e.2.state <;> rfl
    have sampled : s.sampleTags = one.transitions (if tags.level = p.tags.level then [] else [Source.tags]) := by
      unfold State.sampleTags
      rw [count]
    refine ⟨fun same => ?_, fun moved => ?_, fun service => ?_,
      fun q => ⟨State.setQuiesce_of_same, State.setQuiesce_of_changed⟩⟩
    · rw [sampled, if_pos same]
      rfl
    · rw [sampled, if_neg moved]
      rfl
    · intro q
      obtain ⟨lat1, lat2, tagged, free⟩ := mem_movedSources p q
      obtain ⟨l, n, once, same, folded⟩ := State.transitions_ordered { s with pressure := q }
        (movedSources_nodup p q) free
      refine ⟨l, n, once, (same _).trans lat1, (same _).trans lat2, (same _).trans tagged, mt (same _).1 free, ?_⟩
      rw [← folded]
      exact s.sampleCompletion_eq service (by rw [count])
  case actions =>
    intro x half pages m
    refine ⟨State.shallow_none, fun closing deeper => ?_, State.demote_none clip,
      fun q closing primary proxy => ?_⟩
    · have reserved : (s.setStream h { s.stream h with effDepth := half }).reserve h = m :=
        State.reserve_of_boundClip (r := { s.stream h with effDepth := half }) clip open_ sound
      rw [← reserved]
      exact State.shallow_acts closing deeper
    intro wanted lighter
    refine ⟨fun negotiating => ?_, fun other => ?_⟩
    · refine (State.demote_negotiating clip closing primary proxy negotiating).trans ?_
      have freed : (s.setStream h { s.stream h with demoted := true }).idleReservation
          { s.stream h with demoted := true } .proxy = wanted :=
        (State.idleReservation_of_boundClip (k := k) clip .proxy).trans
          (congrArg (x.effDepth * ·) (Clip.bound_proxy proxy))
      rw [State.endNegotiation_eq, State.stream_setStream, State.setStream_setStream, freed]
    · intro refused n
      have named : reservationFor x.state x.effDepth .proxy k = wanted := by
        rw [reservationFor_live open_ sound, if_neg other, Clip.bound_proxy proxy]
      have asked : refused ↔ x.reservation < reservationFor x.state x.effDepth .proxy k
          ∧ s.fits x.reservation (reservationFor x.state x.effDepth .proxy k) = false := by
        rw [named, s.fits_eq_false_iff]
      refine ⟨fun no => State.demote_refused clip closing primary proxy other (asked.1 no), fun yes => ?_⟩
      refine (State.demote_acts clip closing primary proxy other (mt asked.2 yes)).trans ?_
      rw [show reservationFor (s.stream h).state (s.stream h).effDepth .proxy k = wanted from named]
      unfold State.rebuild
      rw [State.stream_setStream]
      rfl

end Sys2Proof.Machine
end

section
/-! PROOFS. PAGE COMPLETION: the span that becomes VALID, the fill that is discarded, and what the slots and the streams
make of it. -/

namespace Sys2Proof.Machine

open Sys2Proof

variable {s : State} {h : Handle}

/-! ## The completion (R86, R87, R111) -/

section Completion

variable {i : Nat} {x : Span} {f : Fetch} {tag : TagIndex}

/-- A fetch record that has given up its tag. -/
def Fetch.released (f : Fetch) : Fetch :=
  { f with tag := none, received := 0, issueTime := none, expiry := none, waiting := false }

/-- A span whose fetch record has given up its tag. -/
def Span.released (x : Span) (f : Fetch) : Span := { x with state := .filling f.released }

/-- The state of a completed page, but for its span: the tag is free, the samples are taken, and the completion
counts. -/
def State.completed (s : State) (i : Nat) (f : Fetch) (tag : TagIndex) (choices : Nat) : State :=
  { s with
    choices := choices
    pressure := { lat1 := s.pressure.lat1.sample s.tables.active.shed.lat1 (s.now - f.firstIssue.getD s.now)
                  lat2 := s.pressure.lat2.sample s.tables.active.shed.lat2 (s.now - f.firstIssue.getD s.now)
                  tags := s.pressure.tags.sample s.tables.active.shed.tags (s.release i).issuedCount }
    fetch := { s.fetch with
      generations := s.fetch.generations.set tag.1 (s.fetch.generations[tag] + 1) tag.2
      continuations := s.fetch.continuations.filter (fun j => j != i)
      counts := { s.fetch.counts with completions := s.fetch.counts.completions + 1 } } }

/-- With no rule ARMED, a completion frees the tag, samples and counts, and then goes by the REFILL mark. -/
theorem State.completePage_eq (unarmed : s.NoneArmed) (span : s.buffer.span i = some x) (filling : x.state = .filling f)
    (held : f.tag = some tag) : ∃ choices : Nat, s.completePage i f = if x.refill = true
      then ((s.completed i f tag choices).putSpan i (x.released f)).refillDiscard i (x.released f)
      else ((s.completed i f tag choices).putSpan i (x.released f)).fillComplete i (x.released f) f.report := by
  have freed := State.release_known span filling held
  have still : (s.release i).NoneArmed := by
    rw [freed]
    exact unarmed
  obtain ⟨choices, sampled⟩ := State.sampleCompletion_of_noneArmed still (s.now - f.firstIssue.getD s.now)
  refine ⟨choices, ?_⟩
  have counted : ((s.release i).sampleCompletion (s.now - f.firstIssue.getD s.now)).count
      (fun c => { c with completions := c.completions + 1 })
      = (s.completed i f tag choices).putSpan i (x.released f) := by
    rw [sampled, State.completed]
    generalize (s.release i).issuedCount = issued
    rw [freed]
    rfl
  have put : ((s.completed i f tag choices).putSpan i (x.released f)).buffer.span i = some (x.released f) :=
    State.span_putSpan ..
  unfold State.completePage
  dsimp only
  rw [counted, put]
  rfl

variable {v : State} {y : Span} {mark : Bool}

/-- A fill without REFILL leaves the span VALID, whatever record it held. -/
theorem State.fillComplete_unused (unused : y.refs = []) : (v.putSpan i y).fillComplete i y mark
    = State.restSpan (v.putSpan i { y with state := .valid, checkFailed := mark }) i := by
  unfold State.fillComplete
  rw [State.putSpan_putSpan, unused]
  rfl

theorem State.fillComplete_used (used : y.refs ≠ []) : (v.putSpan i y).fillComplete i y mark
    = ((v.putSpan i { y with state := .valid, checkFailed := mark }).fillSlots mark y.refs).windowsChanged
      (streamsOf y.refs) := by
  unfold State.fillComplete
  rw [State.putSpan_putSpan]
  exact if_neg fun empty => used (List.isEmpty_iff.1 empty)

/-- A span that rests while no key waits joins the list, and no key is served. -/
theorem State.restSpan_of_idle (idle : v.buffer.waiting = []) : v.restSpan i
    = { v with buffer := { v.buffer with resting := v.buffer.resting ++ [i] } } :=
  State.serve_of_nil (s := { v with buffer := { v.buffer with resting := v.buffer.resting ++ [i] } }) idle

/-- A discarded fill, counted and begun again, before the record is queued or the span freed. -/
def State.discarded (v : State) : State :=
  v.count (fun c => { c with refillDiscards := c.refillDiscards + 1 })

/-- The record of a page that is to be read again whole. -/
def Fetch.restarted (f : Fetch) : Fetch := { f with base := 0, received := 0, report := false, firstIssue := none }

/-- Its span, which no longer carries the mark REFILL. -/
def Span.restarted (y : Span) (f : Fetch) : Span := { y with refill := false, state := .filling f.restarted }

theorem State.refillDiscard_eq (filling : y.state = .filling f) : (v.putSpan i y).refillDiscard i y
    = (v.discarded.putSpan i (y.restarted f)).requeue true i := by
  have counted : ((v.putSpan i y).count fun c => { c with refillDiscards := c.refillDiscards + 1 })
      = v.discarded.putSpan i y := rfl
  have put : (v.discarded.putSpan i { y with refill := false }).buffer.span i = some { y with refill := false } :=
    State.span_putSpan ..
  unfold State.refillDiscard
  dsimp only
  rw [counted, State.putSpan_putSpan, State.mapFetch_known put filling, State.putSpan_putSpan]
  rfl

/-- A record that leaves ISSUED under a new sequence is queued at the end of its deadline. -/
theorem State.requeue_fresh (used : y.refs ≠ []) (filling : y.state = .filling f) : (v.putSpan i y).requeue true i
    = State.nextSequence (v.putSpan i { y with state := .filling { f with
        state := .queued, sequence := v.fetch.enqueue } }) := by
  have wanted : y.wanted = true := by
    unfold Span.wanted
    rw [List.isEmpty_eq_false_iff.2 used]
    rfl
  unfold State.requeue
  rw [State.span_putSpan]
  dsimp only
  rw [if_pos wanted, if_pos rfl, State.mapFetch_known (State.span_putSpan ..) filling, State.putSpan_putSpan]
  rfl

end Completion

/-! ## The slots of a filled span (R68) -/

theorem State.pagesValid_iff (s : State) (z : Slot) : s.pagesValid z = true
    ↔ ∀ e ∈ z.pages, ∃ (j : Nat) (y : Span), e.span = some j ∧ s.buffer.span j = some y ∧ y.state = .valid := by
  unfold State.pagesValid
  rw [List.all_eq_true]
  refine forall₂_congr fun e _ => ?_
  cases named : e.span with
  | none => simp
  | some j => cases span : s.buffer.span j <;> simp [span]

theorem State.filledSlot_ready {mark : Bool} {z : Slot} (pending : z.state = .pending) (valid : s.pagesValid z = true) :
    s.filledSlot mark z = { z with state := .ready, checkFailed := z.checkFailed || mark } := by
  unfold State.filledSlot
  rw [if_pos ⟨pending, valid⟩]

theorem State.filledSlot_stays {mark : Bool} {z : Slot} (stays : z.state ≠ .pending ∨ ¬ s.pagesValid z = true) :
    s.filledSlot mark z = { z with checkFailed := z.checkFailed || mark } := by
  unfold State.filledSlot
  rw [if_neg fun both => stays.elim (· both.1) (· both.2)]

/-! ## A changed window (R68, R147) -/

theorem State.primingDone_iff (priming : (s.stream h).state = .priming) : s.primingDone h = true
    ↔ (s.window h).slots ≠ [] ∧ ∀ z ∈ (s.window h).slots, z.state ≠ .pending := by
  simp [State.primingDone, priming]

theorem State.reportPriming_undone (undone : ¬ s.primingDone h = true) : s.reportPriming h = s := by
  unfold State.reportPriming
  exact if_neg undone

theorem State.reportPriming_done (done : s.primingDone h = true) : s.reportPriming h = s.completePriming h := by
  unfold State.reportPriming
  exact if_pos done

theorem State.reportPriming_other (other : (s.stream h).state ≠ .priming) : s.reportPriming h = s :=
  State.reportPriming_undone fun done => other (by
    simp only [State.primingDone, Bool.and_eq_true, beq_iff_eq] at done
    exact done.1.1)

theorem State.windowChanged_priming (priming : (s.stream h).state = .priming) :
    s.windowChanged h = s.reportPriming h := by
  unfold State.windowChanged
  exact if_pos priming

theorem State.windowChanged_other (other : (s.stream h).state ≠ .priming) : s.windowChanged h = s.settleWait h := by
  unfold State.windowChanged
  exact if_neg other

theorem State.completePriming_primed (stays : (s.stream h).autoplay = false) : s.completePriming h
    = ((s.setStream h { s.stream h with state := .primed, pauseReason := none }).stopCadence h).notify h .primed := by
  have same : ({ s.stream h with autoplay := false, state := .primed, pauseReason := none } : Stream)
      = { s.stream h with state := .primed, pauseReason := none } := by
    rw [← stays]
  unfold State.completePriming State.moveTo
  dsimp only
  rw [stays, State.stream_setStream, State.setStream_setStream, same]
  rfl

/-- A stream that completes priming with AUTOPLAY enters PLAYING with its flag cleared. -/
theorem State.completePriming_plays (goes : (s.stream h).autoplay = true) : s.completePriming h
    = (s.setStream h { s.stream h with autoplay := false }).enterPlaying h := by
  unfold State.completePriming
  exact if_pos goes

/-- Settles O37: the completion by the REFILL mark and the referrers, the slots one by one, and the streams by state. -/
theorem pageCompletionMakesTheSpanValid : Obligations.PageCompletionMakesTheSpanValid := by
  refine ⟨fun s i x f tag unarmed span filling held refill unused idle => ?resting,
    fun s i x f tag unarmed span filling held => ?completion, fun s mark r rest => ⟨rfl, rfl, ?slots⟩,
    fun s h rest => ?windows⟩
  case resting =>
    obtain ⟨choices, completed⟩ := State.completePage_eq unarmed span filling held
    rw [if_neg (Bool.eq_false_iff.1 refill), State.fillComplete_unused (y := x.released f) unused] at completed
    rw [State.restSpan_of_idle (v := (s.completed i f tag choices).putSpan i _) idle] at completed
    intro u
    rw [show u = _ from completed]
    exact ⟨State.span_putSpan .., rfl, rfl, rfl, rfl, rfl, rfl⟩
  case completion =>
    obtain ⟨choices, completed⟩ := State.completePage_eq unarmed span filling held
    refine ⟨choices, ?_⟩
    intro u n service shed v valid discarded
    have complete : u = if x.refill = true then (v.putSpan i (x.released f)).refillDiscard i (x.released f)
        else (v.putSpan i (x.released f)).fillComplete i (x.released f) f.report := completed
    refine ⟨fun refill unused => ?_, fun refill used => ?_, fun refill used => ?_, fun refill unused => ?_⟩
    · rw [complete, if_neg (Bool.eq_false_iff.1 refill), State.fillComplete_unused (y := x.released f) unused]
      rfl
    · rw [complete, if_neg (Bool.eq_false_iff.1 refill), State.fillComplete_used (y := x.released f) used]
      rfl
    · rw [complete, if_pos refill, State.refillDiscard_eq rfl,
        State.requeue_fresh (y := (x.released f).restarted f.released) used rfl]
      rfl
    · rw [complete, if_pos refill, State.refillDiscard_eq rfl,
        State.requeue_unwanted (x := (x.released f).restarted f.released) (State.span_putSpan ..) unused,
        State.freeSpan_putSpan]
      rfl
  case slots =>
    intro valid u
    refine ⟨fun z => if z.serial = r.slot then s.filledSlot mark z else z, fun z other => if_neg other,
      fun z own => ⟨fun pending sound => ?_, fun stays => ?_⟩, rfl⟩
    · exact (if_pos own).trans (State.filledSlot_ready pending ((s.pagesValid_iff z).2 sound))
    · exact (if_pos own).trans (State.filledSlot_stays (stays.imp_right (mt (s.pagesValid_iff z).1)))
  case windows =>
    intro r c u done
    have ended (priming : r.state = .priming) : s.primingDone h = true ↔ done := State.primingDone_iff priming
    have completes (priming : r.state = .priming) (ready : done) : u = s.completePriming h :=
      (State.windowChanged_priming priming).trans (State.reportPriming_done ((ended priming).2 ready))
    refine ⟨rfl, rfl, fun priming => (State.windowChanged_priming priming).symm, State.reportPriming_other,
      fun other running => (State.windowChanged_other other).trans (State.settleWait_running running),
      fun priming open_ => (State.windowChanged_priming priming).trans
        (State.reportPriming_undone (mt (ended priming).1 open_)),
      fun priming ready stays => (completes priming ready).trans (State.completePriming_primed stays),
      fun priming ready goes => ⟨fun marked => ?_, fun free => ?_⟩, fun playing waiting => ?_⟩
    · have held : (s.setStream h { r with autoplay := false }).markedWith
          ((s.setStream h { r with autoplay := false }).stream h) .pause = true := by
        rw [State.stream_setStream]
        exact marked
      have unshed : ¬ (((s.setStream h { r with autoplay := false }).stream h).state = .paused
          ∧ ((s.setStream h { r with autoplay := false }).stream h).pauseReason = some .shed) := by
        rw [State.stream_setStream]
        intro both
        cases priming.symm.trans both.1
      rw [completes priming ready, State.completePriming_plays goes, State.enterPlaying_held held, if_neg unshed]
      unfold State.pauseFor
      rw [State.stream_setStream, State.setStream_setStream]
    · have unheld : (s.setStream h { r with autoplay := false }).markedWith
          ((s.setStream h { r with autoplay := false }).stream h) .pause = false := by
        rw [State.stream_setStream]
        exact free
      rw [completes priming ready, State.completePriming_plays goes, State.enterPlaying_free unheld,
        State.stream_setStream, State.setStream_setStream]
      rfl
    · rw [show u = s.settleWait h from State.windowChanged_other (by rw [playing]; decide)]
      exact State.settleWait_waiting playing waiting

end Sys2Proof.Machine
end

section
/-! PROOFS. FAILED ATTEMPTS: the attempt that fails below the retry limit and at it, the slots that a failed fetch
reaches, and the read timeout. -/

namespace Sys2Proof.Machine

open Sys2Proof

variable {s v : State} {i : Nat} {x : Span} {f : Fetch} {tag : TagIndex}

/-! ## A failed attempt (R106, R113) -/

/-- The record of a fetch that has given up its tag with one more failure. -/
def Fetch.failedOnce (f : Fetch) : Fetch := { f.released with failures := f.failures + 1 }

/-- Its span. -/
def Span.failedOnce (x : Span) (f : Fetch) : Span := { x with state := .filling f.failedOnce }

/-- The state after the release of a tag and its sample, but for the span. -/
def State.tagFreed (s : State) (i : Nat) (tag : TagIndex) : State :=
  { s with
    pressure := { s.pressure with
      tags := s.pressure.tags.sample s.tables.active.shed.tags (s.release i).issuedCount }
    fetch := { s.fetch with
      generations := s.fetch.generations.set tag.1 (s.fetch.generations[tag] + 1) tag.2
      continuations := s.fetch.continuations.filter (fun j => j != i) } }

/-- The same state with the failed attempt counted. -/
def State.attemptFailed (s : State) (i : Nat) (tag : TagIndex) : State :=
  (s.tagFreed i tag).count fun c => { c with failedAttempts := c.failedAttempts + 1 }

theorem State.sampleTags_release (unarmed : s.NoneArmed) (span : s.buffer.span i = some x)
    (filling : x.state = .filling f) (held : f.tag = some tag) :
    (s.release i).sampleTags = (s.tagFreed i tag).putSpan i (x.released f) := by
  have freed := State.release_known span filling held
  have still : (s.release i).NoneArmed := by
    rw [freed]
    exact unarmed
  rw [State.sampleTags_of_noneArmed still, State.tagFreed]
  generalize (s.release i).issuedCount = issued
  rw [freed]
  rfl

/-- With no rule ARMED, a failed attempt frees the tag, samples and counts, and then goes by the retry limit. -/
theorem State.failedAttempt_eq (unarmed : s.NoneArmed) (span : s.buffer.span i = some x)
    (filling : x.state = .filling f) (held : f.tag = some tag) (check : Bool) : s.failedAttempt i check
      = if s.tables.active.policy.retryLimit ≤ f.failures + 1
        then ((s.attemptFailed i tag).putSpan i (x.failedOnce f)).fetchFails i (x.failedOnce f) check
        else ((s.attemptFailed i tag).putSpan i (x.failedOnce f)).requeue true i := by
  have failed : (s.release i).sampleTags.mapFetch i (fun g => { g with failures := g.failures + 1 })
      = (s.tagFreed i tag).putSpan i (x.failedOnce f) := by
    rw [State.sampleTags_release unarmed span filling held, State.mapFetch_known (State.span_putSpan ..) rfl,
      State.putSpan_putSpan]
    rfl
  have counted : ((s.tagFreed i tag).putSpan i (x.failedOnce f)).count
      (fun c => { c with failedAttempts := c.failedAttempts + 1 })
      = (s.attemptFailed i tag).putSpan i (x.failedOnce f) := rfl
  have put : ((s.attemptFailed i tag).putSpan i (x.failedOnce f)).buffer.span i = some (x.failedOnce f) :=
    State.span_putSpan ..
  unfold State.failedAttempt
  dsimp only
  rw [failed, counted, put]
  rfl

/-! ## The retry limit (R84, R101, R114) -/

theorem State.pushNotice_putSpan (n : Notice) : (v.putSpan i x).pushNotice n = (v.pushNotice n).putSpan i x := by
  by_cases room : v.responder.notices.length < 32
  · rw [State.pushNotice_room (s := v) n room, State.pushNotice_room (s := v.putSpan i x) n room]
    rfl
  · have full := Nat.not_lt.1 room
    rw [State.pushNotice_full (s := v) n full, State.pushNotice_full (s := v.putSpan i x) n full]
    rfl

theorem State.fetch_pushNotice (n : Notice) : (v.pushNotice n).fetch = v.fetch := by
  unfold State.pushNotice
  split <;> rfl

/-- A fetch that fails hands over its notice and counts, and its span leaves the table before its slots are told. -/
theorem State.fetchFails_putSpan (check : Bool) : (v.putSpan i x).fetchFails i x check
    = (((((v.pushNotice (if check then .checkFailed x.key else .fetchFailed x.key)).count
      fun c => { c with failures := c.failures + 1 }).putSpan i x).freeSpan i).failSlots x.key x.refs).windowsChanged
        (streamsOf x.refs) := by
  unfold State.fetchFails
  dsimp only
  rw [State.pushNotice_putSpan]
  rfl

section Attempt

variable (unarmed : s.NoneArmed) (span : s.buffer.span i = some x) (filling : x.state = .filling f)
  (held : f.tag = some tag)

include unarmed span filling held

/-- Below the limit, a page that a referrer wants is queued again under a new sequence. -/
theorem State.failedAttempt_retried (check : Bool) (below : f.failures + 1 < s.tables.active.policy.retryLimit)
    (used : x.refs ≠ []) : s.failedAttempt i check
      = ((s.attemptFailed i tag).putSpan i { x with state := .filling { f.failedOnce with
          state := .queued, sequence := s.fetch.enqueue } }).nextSequence := by
  rw [State.failedAttempt_eq unarmed span filling held, if_neg (Nat.not_le.2 below)]
  exact State.requeue_fresh (y := x.failedOnce f) used rfl

/-- Below the limit, a page that nothing wants gives up its span. -/
theorem State.failedAttempt_dropped (check : Bool) (below : f.failures + 1 < s.tables.active.policy.retryLimit)
    (unused : x.refs = []) : s.failedAttempt i check
      = ((s.attemptFailed i tag).putSpan i (x.failedOnce f)).freeSpan i := by
  rw [State.failedAttempt_eq unarmed span filling held, if_neg (Nat.not_le.2 below)]
  exact State.requeue_unwanted (x := x.failedOnce f) (State.span_putSpan ..) unused true

/-- At the limit, the fetch fails. -/
theorem State.failedAttempt_exhausted (check : Bool) (limit : s.tables.active.policy.retryLimit ≤ f.failures + 1) :
    s.failedAttempt i check
      = (((((s.attemptFailed i tag).pushNotice (if check then .checkFailed x.key else .fetchFailed x.key)).count
        fun c => { c with failures := c.failures + 1 }).putSpan i (x.failedOnce f)).freeSpan i |>.failSlots x.key
          x.refs).windowsChanged (streamsOf x.refs) := by
  rw [State.failedAttempt_eq unarmed span filling held, if_pos limit]
  exact State.fetchFails_putSpan check

end Attempt

/-! ## The slots of a failed span (R69) -/

/-- A slot of a failed span detaches its other pages and becomes FAILED. -/
theorem State.failSlots_one {k : Key} {r : Referrer} {y : Slot} (slot : (s.window r.handle).slot r.slot = some y) :
    s.failSlots k [r] = (s.detachKeys r.handle r.slot ((y.pages.map PageEntry.key).filter (fun j => j != k))).mapSlot
      r.handle r.slot (fun z => { z with state := .failed, pages := [], checkFailed := false, stale := false }) := by
  unfold State.failSlots
  rw [slot]
  rfl

theorem State.failSlots_cons (s : State) (k : Key) (r : Referrer) (rest : List Referrer) :
    s.failSlots k (r :: rest) = (s.failSlots k [r]).failSlots k rest := rfl

/-! ## The read timeout (R116) -/

theorem exec_readTimeout (s : State) (time : Nat) (tag : TagIndex) :
    exec (.readTimeout time tag) s = .next ((s.stamp time).timeOut tag).drainEnd.settle := rfl

/-- A tag without a holder, an expiry, or one that has been reached times nothing out. -/
theorem State.timeOut_unreached (unreached : ∀ (i : Nat) (f : Fetch), s.buffer.holder tag = some i →
    s.buffer.fetch i = some f → ∀ e : Nat, f.expiry = some e → s.now < e) : s.timeOut tag = s := by
  unfold State.timeOut
  split
  · rfl
  · rename_i i holder
    split
    · rfl
    · rename_i f fetch
      split
      · rfl
      · rename_i e expiry
        exact if_neg (Nat.not_le.2 (unreached i f holder fetch e expiry))

theorem State.timeOut_reached {e : Nat} (holder : s.buffer.holder tag = some i) (fetch : s.buffer.fetch i = some f)
    (expiry : f.expiry = some e) (reached : e ≤ s.now) : s.timeOut tag
      = (s.count fun c => { c with timeouts := c.timeouts + 1 }).failedAttempt i false := by
  unfold State.timeOut
  rw [holder]
  dsimp only
  rw [fetch]
  dsimp only
  rw [expiry]
  exact if_pos reached

/-- Settles O36: the timeout by its expiry, the attempt by the retry limit and the referrers, and the slots one by
one. -/
theorem readTimeoutsFailTheAttempt : Obligations.ReadTimeoutsFailTheAttempt := by
  refine ⟨fun s time tag =>
      ⟨fun unreached => ?early, fun i x f e holder span filling held expiry reached => ?timeout⟩,
    fun s i x f tag check unarmed span filling held => ?attempt,
    fun s k r rest => ⟨rfl, s.failSlots_cons k r rest, fun y slot => State.failSlots_one slot⟩⟩
  case early => rw [exec_readTimeout, State.timeOut_unreached (s := s.stamp time) unreached]
  case timeout =>
    intro v n w u
    refine ⟨?_, fun unarmed used below => ?_⟩
    · rw [exec_readTimeout, State.timeOut_reached (s := s.stamp time) holder (SpanBuffer.fetch_of_filling span filling)
        expiry reached]
      rfl
    · intro g
      have retried : u = _ := State.failedAttempt_retried (s := w) unarmed span filling held false below used
      rw [retried]
      exact ⟨State.span_putSpan .., rfl, rfl, rfl, rfl, rfl, rfl⟩
  case attempt =>
    intro u n limit v freed
    refine ⟨fun below used => ?_, fun below unused => ?_, fun reached => ?_⟩
    · exact State.failedAttempt_retried unarmed span filling held check below used
    · exact (State.failedAttempt_dropped unarmed span filling held check below unused).trans
        (State.freeSpan_putSpan ..)
    · intro m q
      have counted : m.count (fun c => { c with failures := c.failures + 1 }) = q := by
        unfold State.count
        rw [show m.fetch = v.fetch from State.fetch_pushNotice _]
      refine (State.failedAttempt_exhausted unarmed span filling held check reached).trans ?_
      rw [State.freeSpan_putSpan]
      exact congrArg (fun p : State => ((freed p).failSlots x.key x.refs).windowsChanged (streamsOf x.refs)) counted

end Sys2Proof.Machine
end

section
/-! PROOFS. CLEAR SHED: the first result that applies, the rule and the marks after a clear, and the reversal of each
action. -/

namespace Sys2Proof.Machine

open Sys2Proof

variable {s t : State} {h : Handle} {r : RuleNumber}

/-! ## The reversals act on one stream (R179 to R181) -/

theorem ActsOn.promote (a : ActsOn h s t) : ActsOn h s (t.promote h) := by
  unfold State.promote
  dsimp only
  split
  · split
    · have raised (n : Nat) : ActsOn h s (t.setStream h { t.stream h with
          rendition := .primary, reservation := n, demoted := false }) := a.edit rfl
      exact (((raised _).quiet ((Quiet.refl _).rebuild h)).notify _).windowChanged
    · exact (a.edit (r := { t.stream h with demoted := false }) rfl).notify _
  · exact a

theorem ActsOn.restoreDepth (a : ActsOn h s t) : ActsOn h s (t.restoreDepth h) := by
  unfold State.restoreDepth
  dsimp only
  split
  · exact a
  · split
    · split
      · have deepened (n : Nat) : ActsOn h s (t.setStream h { t.stream h with
            effDepth := (t.stream h).depth, reservation := n }) := a.edit rfl
        exact (((deepened _).quiet ((Quiet.refl _).topUp h)).notify _).windowChanged
      · exact a.notify _
    · exact a

theorem ActsOn.resume (a : ActsOn h s t) : ActsOn h s (t.resume h) := by
  unfold State.resume
  dsimp only
  split
  · exact a.enterPlaying
  · exact a

theorem ActsOn.unshed (a : ActsOn h s t) (act : ShedAction) : ActsOn h s (t.unshed act h) := by
  cases act with
  | demote => exact a.promote
  | shallow => exact a.restoreDepth
  | pause => exact a.resume

/-! ## Marks (R19, R177) -/

theorem Stream.marked_dropMark_self (x : Stream) (r : RuleNumber) : (x.dropMark r).marked r = false := by
  simp [Stream.marked, Stream.dropMark]

theorem Stream.marked_dropMark_of_ne (x : Stream) {q : RuleNumber} (other : q ≠ r) :
    (x.dropMark r).marked q = x.marked q := by
  have bit : (1#4 <<< (r : Nat)).getLsbD q = false := by
    revert q r
    decide
  unfold Stream.marked Stream.dropMark
  rw [BitVec.getLsbD_and, BitVec.getLsbD_not, bit, decide_eq_true q.2]
  exact Bool.and_true _

theorem State.markedWith_iff (s : State) (x : Stream) (act : ShedAction) : s.markedWith x act = true
    ↔ ∃ q : RuleNumber, x.marked q = true ∧ (s.rule q).action = act := by
  simp [State.markedWith, mem_ruleNumbers]

/-- A mark that remains with an action is the mark of another rule. -/
theorem State.markedWith_dropMark_iff (s : State) (x : Stream) (r : RuleNumber) (act : ShedAction) :
    s.markedWith (x.dropMark r) act = true
      ↔ ∃ q : RuleNumber, q ≠ r ∧ x.marked q = true ∧ (s.rule q).action = act := by
  rw [State.markedWith_iff]
  refine exists_congr fun q => ⟨fun ⟨marked, action⟩ => ?_, fun ⟨other, marked, action⟩ =>
    ⟨(x.marked_dropMark_of_ne other).trans marked, action⟩⟩
  have other : q ≠ r := by
    rintro rfl
    rw [Stream.marked_dropMark_self] at marked
    cases marked
  exact ⟨other, (x.marked_dropMark_of_ne other).symm.trans marked, action⟩

/-! ## The clear of a rule (R177) -/

section Clear

variable {act : ShedAction} {w : State}

/-- What the clear of a rule of `s` makes of one stream of `w`. -/
def State.unmarkOne (s : State) (r : RuleNumber) (act : ShedAction) (w : State) (h : Handle) : State :=
  if (w.stream h).marked r = false then w
  else if (w.stream h).state = .closing
      ∨ ∃ q : RuleNumber, q ≠ r ∧ (w.stream h).marked q = true ∧ (s.rule q).action = act then
    w.setStream h ((w.stream h).dropMark r)
  else (w.setStream h ((w.stream h).dropMark r)).unshed act h

/-- The stream loses its mark of the rule, whatever becomes of it then, and no other record changes. -/
theorem State.unmarkOne_acts (s : State) (r : RuleNumber) (act : ShedAction) (w : State) (h : Handle) :
    (s.unmarkOne r act w h).tables = w.tables ∧ (s.unmarkOne r act w h).rules = w.rules
    ∧ ((s.unmarkOne r act w h).stream h).marked r = false
    ∧ ∀ k : Handle, k ≠ h → (s.unmarkOne r act w h).stream k = w.stream k := by
  have dropped {u : State} (tables : u.tables = w.tables) (a : ActsOn h (w.setStream h ((w.stream h).dropMark r)) u) :
      u.tables = w.tables ∧ u.rules = w.rules ∧ (u.stream h).marked r = false
      ∧ ∀ k : Handle, k ≠ h → u.stream k = w.stream k := by
    refine ⟨tables, a.rules, ?_,
      fun k other => (a.others k other).trans (w.stream_setStream_of_ne (Ne.symm other) _)⟩
    unfold Stream.marked
    rw [a.marks, State.stream_setStream]
    exact Stream.marked_dropMark_self ..
  unfold State.unmarkOne
  split
  · rename_i unmarked
    exact ⟨rfl, rfl, unmarked, fun _ _ => rfl⟩
  · split
    · exact dropped rfl (ActsOn.refl _)
    · exact dropped ((Keeps.refl _).unshed act h).tables ((ActsOn.refl _).unshed act)

theorem State.unmark_cons (same : w.tables = s.tables) (l : List Handle) :
    w.unmark r act (h :: l) = (s.unmarkOne r act w h).unmark r act l := by
  have remains : (w.setStream h ((w.stream h).dropMark r)).markedWith ((w.stream h).dropMark r) act = true
      ↔ ∃ q : RuleNumber, q ≠ r ∧ (w.stream h).marked q = true ∧ (s.rule q).action = act := by
    rw [State.markedWith_congr (s := s) (t := w.setStream h _) same rfl, State.markedWith_dropMark_iff]
  unfold State.unmarkOne
  rw [State.unmark]
  dsimp only
  rw [State.stream_setStream]
  simp only [remains]
  cases (w.stream h).marked r with
  | false => rfl
  | true => exact (apply_ite (fun u : State => u.unmark r act l) ..).symm

/-- The clear goes by the actions of the rules as they stand before it. -/
theorem State.unmark_eq_foldl (l : List Handle) : ∀ w : State, w.tables = s.tables →
    w.unmark r act l = l.foldl (s.unmarkOne r act) w := by
  induction l with
  | nil => exact fun _ _ => rfl
  | cons h l ih =>
    intro w same
    rw [State.unmark_cons same, List.foldl_cons]
    obtain ⟨tables, -⟩ := s.unmarkOne_acts r act w h
    exact ih _ (tables.trans same)

/-- After the pass, no stream of the list carries the rule's mark, nor one that did not carry it before. -/
theorem State.foldl_unmarkOne_marks (s : State) (r : RuleNumber) (act : ShedAction) (l : List Handle) : ∀ w : State,
    (l.foldl (s.unmarkOne r act) w).rules = w.rules
    ∧ ∀ h : Handle, h ∈ l ∨ (w.stream h).marked r = false →
      ((l.foldl (s.unmarkOne r act) w).stream h).marked r = false := by
  induction l with
  | nil => exact fun w => ⟨rfl, fun h either => either.resolve_left List.not_mem_nil⟩
  | cons k l ih =>
    intro w
    obtain ⟨-, rules, unmarked, others⟩ := s.unmarkOne_acts r act w k
    obtain ⟨kept, cleared⟩ := ih (s.unmarkOne r act w k)
    refine ⟨kept.trans rules, fun h either => cleared h ?_⟩
    by_cases own : h = k
    · exact .inr (own ▸ unmarked)
    · refine either.imp (fun listed => (List.mem_cons.1 listed).resolve_left own) fun before => ?_
      rw [others h own]
      exact before

end Clear

theorem State.clearRule_eq_foldl (s : State) (r : RuleNumber) :
    s.clearRule r = handles.foldl (s.unmarkOne r (s.rule r).action) (s.setRule r .armed) :=
  State.unmark_eq_foldl handles _ rfl

theorem State.ruleState_setRule (s : State) (r q : RuleNumber) (x : RuleState) :
    (s.setRule r x).ruleState q = if q = r then x else s.ruleState q := by
  unfold State.ruleState State.setRule
  by_cases own : q = r
  · subst own
    simp
  · have apart : (r : Nat) ≠ q := fun e => own (Fin.ext e.symm)
    simp [own, apart]

theorem State.ruleState_clearRule (s : State) (r q : RuleNumber) :
    (s.clearRule r).ruleState q = if q = r then .armed else s.ruleState q := by
  obtain ⟨rules, -⟩ := s.foldl_unmarkOne_marks r (s.rule r).action handles (s.setRule r .armed)
  rw [← State.ruleState_setRule, State.clearRule_eq_foldl]
  unfold State.ruleState
  rw [rules]

theorem State.marked_clearRule (s : State) (r : RuleNumber) (h : Handle) :
    ((s.clearRule r).stream h).marked r = false := by
  obtain ⟨-, cleared⟩ := s.foldl_unmarkOne_marks r (s.rule r).action handles (s.setRule r .armed)
  rw [State.clearRule_eq_foldl]
  exact cleared h (.inl (List.mem_finRange h))

/-! ## The reversal of PAUSE (R181) -/

theorem State.resume_stays (stays : ¬ ((s.stream h).state = .paused ∧ (s.stream h).pauseReason = some .shed)
    ∨ s.markedWith (s.stream h) .pause = true) : s.resume h = s := by
  unfold State.resume
  dsimp only
  split
  · rename_i shed
    have held := stays.resolve_left (not_not.2 shed)
    rw [State.enterPlaying_held held, if_pos shed]
  · rfl

theorem State.resume_plays (paused : (s.stream h).state = .paused)
    (shed : (s.stream h).pauseReason = some .shed) : s.resume h = s.enterPlaying h := by
  unfold State.resume
  exact if_pos ⟨paused, shed⟩

theorem State.fits_iff (s : State) (present wanted : Nat) : s.fits present wanted = true
    ↔ s.reservationSum - present + wanted ≤ s.tables.active.policy.ceiling := by
  unfold State.fits
  exact decide_eq_true_iff

section Bound

variable {k : Clip} (clip : s.boundClip (s.stream h) = some k)

include clip

/-! ## The reversal of SHALLOW (R72, R180) -/

theorem State.restoreDepth_none (deep : (s.stream h).depth ≤ (s.stream h).effDepth) : s.restoreDepth h = s := by
  unfold State.restoreDepth
  dsimp only
  rw [clip]
  exact if_neg (Nat.not_lt.2 deep)

theorem State.restoreDepth_eq (shallow : (s.stream h).effDepth < (s.stream h).depth) {wanted : Nat}
    (named : reservationFor (s.stream h).state (s.stream h).depth (s.stream h).rendition k = wanted) : s.restoreDepth h
      = if s.fits (s.stream h).reservation wanted then
          (((s.setStream h { s.stream h with effDepth := (s.stream h).depth, reservation := wanted }).topUp h).notify h
            .restored).windowChanged h
        else s.notify h .shallowed := by
  unfold State.restoreDepth
  dsimp only
  rw [clip, ← named]
  exact if_pos shallow

/-! ## The reversal of DEMOTE (R179) -/

theorem State.promote_eq (demoted : (s.stream h).demoted = true) {wanted : Nat}
    (named : reservationFor (s.stream h).state (s.stream h).effDepth .primary k = wanted) : s.promote h
      = if wanted ≤ (s.stream h).reservation ∨ s.fits (s.stream h).reservation wanted = true then
          (((s.setStream h { s.stream h with rendition := .primary, reservation := wanted, demoted := false }).rebuild
            h).notify h .promoted).windowChanged h
        else (s.setStream h { s.stream h with demoted := false }).notify h .demoted := by
  unfold State.promote
  dsimp only
  rw [demoted, clip, ← named]

end Bound

theorem State.promote_none (whole : (s.stream h).demoted = false) : s.promote h = s := by
  unfold State.promote
  dsimp only
  rw [whole]

/-! ## The results of CLEAR SHED (R176) -/

section Verb

variable {a : Arrival} {req : Word} {b : Byte}

theorem exec_clearShed (taking : s.Taking .array a.src) (len : 8 ≤ a.len) :
    exec (.clearShed a req b) s = .next (State.settle ((s.stamp a.time).takeClear a req b)) := by
  change execClearShed a req b s = _
  unfold execClearShed
  rw [State.arrive_taken taking, State.readableManage_of_le len]

theorem State.takeClear_refused {e : ManageResult} (refused : s.clearResult a.len b = .error e) :
    s.takeClear a req b = s.reply a req .clearShed e := by
  unfold State.takeClear
  rw [refused]

theorem State.takeClear_made (made : s.clearResult a.len b = .ok r) :
    s.takeClear a req b = (s.clearRule r).reply a req .clearShed .ok := by
  unfold State.takeClear
  rw [made]

theorem State.clearResult_unnamed (large : 3 < b.toNat) (len : Nat) : s.clearResult len b = .error .badField := by
  have unnamed : ruleOf b = none := dif_neg (Nat.not_lt.2 large)
  unfold State.clearResult
  rw [unnamed]

theorem State.clearResult_named (named : b.toNat = r.1) : s.clearResult 12 b
    = if s.ruleState r ≠ .tripped then .error .noSuch
      else if s.level (s.rule r).source = (s.rule r).level then .error .stillMatching else .ok r := by
  unfold State.clearResult
  rw [ruleOf_eq_some_iff.2 named]
  rfl

end Verb

/-- Settles O49: the results in their order, the clear as a fold over the handles, and the reversals by the stream. -/
theorem clearShedAnswersTheFirstResult : Obligations.ClearShedAnswersTheFirstResult := by
  refine ⟨fun s a req b taking len => ?results, fun s r => s.clearRule_eq_foldl r,
    fun s h => ⟨State.resume_stays, fun paused shed free => ?resumed, fun k clip open_ sound =>
      ⟨State.restoreDepth_none clip, fun shallow => ?restored, State.promote_none,
        fun demoted settled => ?promoted⟩⟩⟩
  case results =>
    intro v answered
    have refuses {e : ManageResult} (refused : v.clearResult a.len b = .error e) : answered v e := by
      unfold answered
      rw [exec_clearShed taking (by omega), State.takeClear_refused refused]
      rfl
    rw [len] at refuses
    refine ⟨fun large => refuses (State.clearResult_unnamed large 12), fun r named => ?_⟩
    have judged := State.clearResult_named (s := v) named
    refine ⟨fun untripped => refuses (judged.trans (if_pos untripped)), fun tripped matching => ?_,
      fun tripped apart => ?_⟩
    · refine refuses (judged.trans ?_)
      rw [if_neg (not_not.2 (show v.ruleState r = .tripped from tripped))]
      exact if_pos matching
    · intro u
      have made : v.clearResult a.len b = .ok r := by
        rw [len, judged, if_neg (not_not.2 (show v.ruleState r = .tripped from tripped))]
        exact if_neg apart
      refine ⟨?_, (v.ruleState_clearRule r r).trans (if_pos rfl),
        fun q other => (v.ruleState_clearRule r q).trans (if_neg other), v.marked_clearRule r⟩
      unfold answered
      rw [exec_clearShed taking (by omega), State.takeClear_made made]
      rfl
  case resumed =>
    intro p q
    exact (State.resume_plays paused shed).trans (State.enterPlaying_free free)
  case restored =>
    intro wanted
    have restored := State.restoreDepth_eq clip shallow (reservationFor_live open_ sound ..)
    exact ⟨fun fits => restored.trans (if_pos ((s.fits_iff ..).2 fits)),
      fun full => restored.trans (if_neg (mt (s.fits_iff ..).1 full))⟩
  case promoted =>
    intro wanted m n
    have named : reservationFor (s.stream h).state (s.stream h).effDepth .primary k = wanted := by
      rw [reservationFor_live open_ sound, if_neg settled]
    have promoted := State.promote_eq clip demoted named
    have rebuilt : m.rebuild h = n := by
      unfold State.rebuild
      rw [State.stream_setStream]
      rfl
    refine ⟨fun fits => ?_, fun raise full => promoted.trans (if_neg ?_)⟩
    · rw [← rebuilt]
      exact promoted.trans (if_pos (fits.imp_right (s.fits_iff ..).2))
    · exact fun either => either.elim (Nat.not_le.2 raise) (mt (s.fits_iff ..).1 full)

end Sys2Proof.Machine
end

section
/-! PROOFS. BUFFER MEMORY: a BD for the part stores bytes, a full reset clears them, and every other command leaves the
memory as it stands, so that each step keeps its canonical form. -/

namespace Sys2Proof.Machine

open Sys2Proof

variable {s : State}

/-! ## The memory after the effects of messages and events -/

theorem State.memory_readable {effect : State → State} (same : ∀ s, (effect s).buffer.memory = s.buffer.memory)
    (s : State) (a : Arrival) : (s.readable a effect).buffer.memory = s.buffer.memory := by
  unfold State.readable
  split
  · rfl
  · exact same s

theorem State.memory_answerManage (s : State) (dst : Half) (req : Word) (verb : Byte) (e : ManageResult)
    (body : AnswerBody) : (s.answerManage dst req verb e body).buffer.memory = s.buffer.memory := by
  unfold State.answerManage
  split <;> rfl

theorem State.memory_reply (s : State) (a : Arrival) (req : Word) (v : ManageVerb) (e : ManageResult) :
    (s.reply a req v e).buffer.memory = s.buffer.memory := s.memory_answerManage ..

theorem State.memory_bare {effect : State → State} (same : ∀ s, (effect s).buffer.memory = s.buffer.memory) (s : State)
    (a : Arrival) (req : Word) (v : ManageVerb) : (s.bare a req v effect).buffer.memory = s.buffer.memory := by
  unfold State.bare
  split
  · exact same s
  · exact s.memory_reply ..

/-! Messages that cross the part, local answers and rewrite notices. -/

theorem State.memory_forwardToFloor (s : State) (f : Frame) :
    (s.forwardToFloor f).buffer.memory = s.buffer.memory := by
  unfold State.forwardToFloor State.joinTurns
  split
  · split <;> rfl
  · rfl

theorem State.memory_forwardToArray (s : State) (f : Frame) :
    (s.forwardToArray f).buffer.memory = s.buffer.memory := by
  unfold State.forwardToArray
  split <;> rfl

theorem State.memory_offerRead (s : State) (f : Frame) : (s.offerRead f).buffer.memory = s.buffer.memory := by
  unfold State.offerRead
  split
  · exact s.memory_forwardToArray f
  · split
    · exact s.memory_forwardToArray f
    · exact ((Keeps.refl s).startAnswer ..).memory

theorem State.memory_takeRewrite (s : State) (f : Frame) : (s.takeRewrite f).buffer.memory = s.buffer.memory := by
  have rewritten (w : Rewrite) : (s.rewrite w).buffer.memory = s.buffer.memory := ((Keeps.refl s).rewrite w).memory
  unfold State.takeRewrite
  split
  · rfl
  · split
    · exact rewritten _
    · exact (State.memory_forwardToFloor _ f).trans (rewritten _)

/-! Quiesce. -/

theorem State.memory_placeGrant (s : State) : s.placeGrant.buffer.memory = s.buffer.memory := by
  unfold State.placeGrant
  dsimp only
  split <;> rfl

theorem State.memory_setQuiesce (s : State) (q : Quiesce) : (s.setQuiesce q).buffer.memory = s.buffer.memory := by
  unfold State.setQuiesce
  dsimp only
  split
  · rfl
  · exact ((Keeps.refl _).transition .quiesced).memory

theorem State.memory_drainEnd (s : State) : s.drainEnd.buffer.memory = s.buffer.memory := by
  unfold State.drainEnd
  split
  · exact (State.memory_placeGrant _).trans (s.memory_setQuiesce .quiesced)
  · rfl

theorem State.memory_takeQuiesceRequest (s : State) (src : Half) :
    (s.takeQuiesceRequest src).buffer.memory = s.buffer.memory := by
  unfold State.takeQuiesceRequest
  split
  · exact (State.memory_drainEnd _).trans ((Keeps.refl _).leaveOpen.memory.trans (State.memory_setQuiesce _ .quiescing))
  · rfl
  · split
    · rfl
    · exact State.memory_placeGrant _

theorem State.memory_takeQuiesceEnd (s : State) : s.takeQuiesceEnd.buffer.memory = s.buffer.memory := by
  unfold State.takeQuiesceEnd
  split
  · rfl
  · exact State.memory_setQuiesce _ .opened
  · exact State.memory_setQuiesce _ .opened

/-! Management. -/

theorem State.memory_stage (s : State) (a : Arrival) (req : Word) (v : ManageVerb) (edit : Except ManageResult Bank) :
    (s.stage a req v edit).buffer.memory = s.buffer.memory := by
  unfold State.stage
  split
  · exact s.memory_reply ..
  · split
    · exact s.memory_reply ..
    · exact State.memory_reply ..

theorem State.memory_takeCommit (s : State) (a : Arrival) (req : Word) :
    (s.takeCommit a req).buffer.memory = s.buffer.memory := by
  unfold State.takeCommit
  split
  · exact s.memory_reply ..
  · split
    · exact s.memory_reply ..
    · split
      · exact s.memory_reply ..
      · split
        · exact s.memory_reply ..
        · exact ((Keeps.refl _).rearm _).memory

theorem State.memory_walkVisit (s : State) : s.walkVisit.buffer.memory = s.buffer.memory := by
  unfold State.walkVisit
  split
  · rfl
  · split
    · exact ((Keeps.refl s).visit _).memory
    · rfl

theorem State.memory_walkEnd (s : State) : s.walkEnd.buffer.memory = s.buffer.memory := by
  unfold State.walkEnd State.answerCommit
  split
  · rfl
  · split
    · rfl
    · split
      · rfl
      · split <;> rfl

theorem State.memory_takeClear (s : State) (a : Arrival) (req : Word) (rule : Byte) :
    (s.takeClear a req rule).buffer.memory = s.buffer.memory := by
  unfold State.takeClear
  split
  · exact s.memory_reply ..
  · exact (State.memory_reply ..).trans ((Keeps.refl s).clearRule _).memory

theorem State.memory_takeReadClip (s : State) (a : Arrival) (req clip : Word) (bank given : Byte) (edition : Word) :
    (s.takeReadClip a req clip bank given edition).buffer.memory = s.buffer.memory := by
  unfold State.takeReadClip
  split
  · exact s.memory_reply ..
  · split
    · exact s.memory_reply ..
    · exact s.memory_answerManage ..

theorem State.memory_takeReadStream (s : State) (a : Arrival) (req : Word) (b : Byte) :
    (s.takeReadStream a req b).buffer.memory = s.buffer.memory := by
  unfold State.takeReadStream
  split
  · exact s.memory_reply ..
  · split
    · exact s.memory_answerManage ..
    · exact s.memory_reply ..

/-! Transmissions and links. -/

theorem State.memory_endAnswerBlock (s : State) (serial : Nat) (bd : AnswerData) :
    (s.endAnswerBlock serial bd).buffer.memory = s.buffer.memory := by
  unfold State.endAnswerBlock
  dsimp only
  split
  · rfl
  · split
    · exact ((Keeps.refl s.freeFloor).endAnswer _).memory
    · exact ((Keeps.refl s.freeFloor).handBlock _).memory

theorem State.memory_endFrame (s : State) (d : Delivery) : (s.endFrame d).buffer.memory = s.buffer.memory :=
  ((Keeps.refl _).transmissionEnded d.handle d.slot).memory

theorem State.memory_endFloorMessage (s : State) : s.endFloorMessage.buffer.memory = s.buffer.memory := by
  unfold State.endFloorMessage
  split
  · rfl
  · rfl
  · rfl
  · exact s.memory_endAnswerBlock ..
  · split
    · exact s.memory_endFrame _
    · rfl

theorem State.memory_endLastSegment (s : State) : s.endLastSegment.buffer.memory = s.buffer.memory := by
  unfold State.endLastSegment
  split
  · split
    · exact s.memory_endFrame _
    · rfl
  · rfl

theorem State.memory_endSentBlock (s : State) : s.endSentBlock.buffer.memory = s.buffer.memory := by
  unfold State.endSentBlock
  split
  · exact s.memory_endAnswerBlock ..
  · rfl

theorem State.memory_loseArray (s : State) : s.loseArray.buffer.memory = s.buffer.memory :=
  (Keeps.refl _).returnIssued.memory.trans (State.memory_setQuiesce _ .opened)

theorem State.memory_loseFloor (s : State) : s.loseFloor.buffer.memory = s.buffer.memory := by
  have lost : Keeps (State.emptyFloor { s with floor := { s.floor with linkUp := false } }) s.loseFloor :=
    ((Keeps.refl _).abandonAnswers _).closeAll _
  exact lost.memory

/-! ## The two effects that change the memory (R85, R96, R108) -/

/-- The blocks of an in-order BD are written in canonical form; nothing else of a BD reaches the memory. -/
theorem State.memoryOk_blockData (ok : s.memoryOk) (len : Nat) (tag : Half) (offset count : Nat) (final : Bool)
    (total : Nat) (check : Word) (data : List Byte) :
    (s.blockData len tag offset count final total check data).memoryOk := by
  have kept {u : State} (same : u.buffer.memory = s.buffer.memory) : u.memoryOk := by
    unfold State.memoryOk
    rwa [same]
  have stored {u : State} {i : Nat} {blocks : List Byte}
      (same : u.buffer.memory = (s.store (blockAddress i offset) blocks).buffer.memory) : u.memoryOk := by
    unfold State.memoryOk
    rw [same, State.store_memory]
    exact Memory.write_wf ok ..
  unfold State.blockData
  dsimp only
  split
  · exact kept rfl
  · split
    · exact kept rfl
    · split
      · exact kept rfl
      · split
        · exact kept rfl
        · split
          · split
            · exact stored (((Keeps.refl _).putSpan _ _).finalBlock ..).memory
            · exact stored rfl
          · exact kept ((Keeps.refl s).failedAttempt ..).memory

/-- A full reset leaves no byte written. -/
theorem State.memoryOk_fullReset (s : State) (pins : Straps) : (s.fullReset pins).memoryOk :=
  ⟨.nil, fun _ listed => absurd listed List.not_mem_nil⟩

/-! ## Commands by the way they reach the part -/

/-- A property that the ports' own handling of a command and the end of an event keep. -/
structure PortsKeep (p : State → Prop) : Prop where
  stamp  : ∀ (s : State) (time : Nat), p s → p (s.stamp time)
  waits  : ∀ (s : State) (port : Port) (c : Instr), p s → p (s.waitOnLink port c)
  settle : ∀ s : State, p s → p s.settle

section Commands

variable {p : State → Prop} {port : Port} {c : Instr} {time : Nat} {effect : State → State}

theorem PortsKeep.arrive {src : Half} (keep : PortsKeep p)
    (run : ∀ s, exec c s = .next (s.arrive port c time src effect)) (e : ∀ s, p s → p (effect s)) : ExecKeeps c p := by
  intro s t holds answers
  obtain rfl := Host.Outcome.next.inj ((run s).symm.trans answers)
  have stamped := keep.stamp s time holds
  obtain only | held | ⟨-, taken⟩ := s.arrive_cases port c time src effect
  · rwa [only]
  · rw [held]
    exact keep.waits _ _ _ stamped
  · rw [taken]
    exact keep.settle _ (e _ stamped)

theorem PortsKeep.arriveFrame {f : Frame} (keep : PortsKeep p)
    (run : ∀ s, exec c s = .next (s.arriveFrame port c time f effect)) (e : ∀ s, p s → p (effect s)) :
    ExecKeeps c p := by
  intro s t holds answers
  obtain rfl := Host.Outcome.next.inj ((run s).symm.trans answers)
  have stamped := keep.stamp s time holds
  obtain only | held | ⟨-, taken⟩ := s.arriveFrame_cases port c time f effect
  · rwa [only]
  · rw [held]
    exact keep.waits _ _ _ stamped
  · rw [taken]
    exact keep.settle _ (e _ stamped)

theorem PortsKeep.event (keep : PortsKeep p) (run : ∀ s, exec c s = .next (s.event time effect))
    (e : ∀ s, p s → p (effect s)) : ExecKeeps c p := by
  intro s t holds answers
  obtain rfl := Host.Outcome.next.inj ((run s).symm.trans answers)
  exact keep.settle _ (e _ (keep.stamp s time holds))

end Commands

theorem portsKeep_memoryOk : PortsKeep State.memoryOk where
  stamp _ _ ok := ok
  waits _ port _ ok := by cases port <;> exact ok
  settle s ok := by
    unfold State.memoryOk
    rwa [(Steady.settle s).memory]

/-! ## Every command, and every step -/

/-- An effect that leaves the memory keeps its form; so does one that a condition may hold back. -/
theorem memoryOk_of_same {effect : State → State} (same : ∀ s, (effect s).buffer.memory = s.buffer.memory) (s : State)
    (ok : s.memoryOk) : (effect s).memoryOk := by
  unfold State.memoryOk
  rwa [same]

theorem memoryOk_of_ite {q : State → Prop} [DecidablePred q] {effect : State → State}
    (same : ∀ s, (effect s).buffer.memory = s.buffer.memory) (s : State) (ok : s.memoryOk) :
    (if q s then effect s else s).memoryOk := by
  split
  · exact memoryOk_of_same same s ok
  · exact ok

theorem exec_keeps_memoryOk (c : Instr) : ExecKeeps c State.memoryOk := by
  have keep := portsKeep_memoryOk
  have message {port : Port} {c : Instr} {a : Arrival} {effect : State → State}
      (run : ∀ s, exec c s = .next (s.arrive port c a.time a.src effect))
      (same : ∀ s, (effect s).buffer.memory = s.buffer.memory) : ExecKeeps c State.memoryOk :=
    keep.arrive run (memoryOk_of_same same)
  have station {c : Instr} {a : Arrival} {effect : State → State}
      (run : ∀ s, exec c s = .next (s.arrive .floor c a.time a.src (fun s => s.readable a effect)))
      (keeps : ∀ s, Keeps s (effect s)) : ExecKeeps c State.memoryOk :=
    message run fun s => State.memory_readable (fun s => (keeps s).memory) s a
  have manage {c : Instr} {a : Arrival} {effect : State → State}
      (run : ∀ s, exec c s = .next (s.arrive .array c a.time a.src (fun s => s.readableManage a effect)))
      (same : ∀ s, (effect s).buffer.memory = s.buffer.memory) : ExecKeeps c State.memoryOk :=
    message run fun s => State.memory_readable same s a
  have own {c : Instr} {t : Nat} {effect : State → State} (run : ∀ s, exec c s = .next (s.event t effect))
      (same : ∀ s, (effect s).buffer.memory = s.buffer.memory) : ExecKeeps c State.memoryOk :=
    keep.event run (memoryOk_of_same same)
  have reset {c : Instr} {pins : Straps} (run : ∀ s, exec c s = .next (s.fullReset pins)) :
      ExecKeeps c State.memoryOk := fun s t _ answers => by
    obtain rfl := Host.Outcome.next.inj ((run s).symm.trans answers)
    exact s.memoryOk_fullReset pins
  cases c with
  | openStream a req clip choice depth late => exact station (fun _ => rfl) fun s => (Keeps.refl s).openVerb ..
  | prime a req b frame stride =>
    exact station (fun _ => rfl) fun s => (Keeps.refl s).judge a req b _ fun h => (Keeps.refl s).moveStream ..
  | start a req b frame stride =>
    exact station (fun _ => rfl) fun s => (Keeps.refl s).judge a req b _ fun h => (Keeps.refl s).moveStream ..
  | seek a req b frame stride =>
    exact station (fun _ => rfl) fun s => (Keeps.refl s).judge a req b _ fun h => (Keeps.refl s).moveStream ..
  | play a req b =>
    exact station (fun _ => rfl) fun s => (Keeps.refl s).judge a req b _ fun h => (Keeps.refl s).playStream ..
  | pause a req b =>
    exact station (fun _ => rfl) fun s => (Keeps.refl s).judge a req b _ fun h => (Keeps.refl s).pauseStream ..
  | close a req b =>
    exact station (fun _ => rfl) fun s => (Keeps.refl s).judge a req b _ fun h => (Keeps.refl s).closeStream ..
  | unknownStationVerb a req verb b => exact station (fun _ => rfl) fun s => (Keeps.refl s).answer ..
  | probeReply a b verdict number => exact message (fun _ => rfl) fun s => ((Keeps.refl s).takeProbeReply ..).memory
  | creditGrant a b n => exact message (fun _ => rfl) fun s => ((Keeps.refl s).takeCredit ..).memory
  | stationBlockRead t f =>
    exact keep.arriveFrame (fun _ => rfl) (memoryOk_of_ite fun s => s.memory_offerRead f)
  | malformedFrame t port f =>
    intro s u ok answers
    obtain rfl := Host.Outcome.next.inj answers
    split
    · exact keep.waits _ _ _ (keep.stamp s t ok)
    · exact keep.stamp s t ok
  | blockDataForPart a tag offset count final total check data =>
    exact keep.arrive (fun _ => rfl) fun s ok =>
      memoryOk_of_same State.memory_drainEnd _ (State.memoryOk_blockData ok ..)
  | deferForPart a tag delay =>
    exact message (fun _ => rfl) fun s => (State.memory_drainEnd _).trans ((Keeps.refl s).deferReply ..).memory
  | forwardedArrayMessage t f =>
    exact keep.arriveFrame (fun _ => rfl) (memoryOk_of_ite fun s => s.memory_forwardToFloor f)
  | rewriteNotice t f => exact keep.arriveFrame (fun _ => rfl) (memoryOk_of_ite fun s => s.memory_takeRewrite f)
  | quiesceRequest a =>
    exact keep.arrive (fun _ => rfl) (memoryOk_of_ite fun s => s.memory_takeQuiesceRequest a.src)
  | quiesceEnd a => exact keep.arrive (fun _ => rfl) (memoryOk_of_ite State.memory_takeQuiesceEnd)
  | stageClip a req offer => exact manage (fun _ => rfl) fun s => s.memory_stage ..
  | unstageClip a req clip => exact manage (fun _ => rfl) fun s => s.memory_stage ..
  | stageStation a req n shedClass limit => exact manage (fun _ => rfl) fun s => s.memory_stage ..
  | unstageStation a req n => exact manage (fun _ => rfl) fun s => s.memory_stage ..
  | stagePolicy a req offer => exact manage (fun _ => rfl) fun s => s.memory_stage ..
  | stageRule a req offer => exact manage (fun _ => rfl) fun s => s.memory_stage ..
  | discardStage a req => exact manage (fun _ => rfl) fun s => s.memory_stage ..
  | commit a req => exact manage (fun _ => rfl) fun s => s.memory_takeCommit a req
  | clearShed a req rule => exact manage (fun _ => rfl) fun s => s.memory_takeClear a req rule
  | readClip a req clip bank given edition => exact manage (fun _ => rfl) fun s => s.memory_takeReadClip ..
  | readStream a req b => exact manage (fun _ => rfl) fun s => s.memory_takeReadStream ..
  | readSpanCounts a req =>
    exact manage (fun _ => rfl) fun s => State.memory_bare (fun q => q.memory_answerManage ..) s a req _
  | readFetchCounts a req =>
    exact manage (fun _ => rfl) fun s => State.memory_bare (fun q => q.memory_answerManage ..) s a req _
  | resetStreams a req =>
    exact manage (fun _ => rfl) fun s => State.memory_bare
      (fun q => (State.memory_reply ..).trans ((Keeps.refl q).closeAll handles).memory) s a req _
  | resetPart a req =>
    refine keep.arrive (fun _ => rfl) fun s ok => ?_
    unfold State.readableManage State.bare
    split
    · exact ok
    · split
      · exact s.memoryOk_fullReset _
      · exact memoryOk_of_same (fun q => q.memory_reply ..) s ok
  | unknownManageVerb a req verb => exact manage (fun _ => rfl) fun s => s.memory_answerManage ..
  | powerOn t pins => exact reset fun _ => rfl
  | resetPin t pins => exact reset fun _ => rfl
  | probeWindowExpiry t h => exact own (fun _ => rfl) fun s => ((Keeps.refl s).endProbe h).memory
  | dueTime t h => exact own (fun _ => rfl) fun s => ((Keeps.refl s).takeDue h).memory
  | readTimeout t tag =>
    exact own (fun _ => rfl) fun s => (State.memory_drainEnd _).trans ((Keeps.refl s).timeOut tag).memory
  | notBeforeTimeReached t i => exact own (fun _ => rfl) fun s => ((Keeps.refl s).endDefer i).memory
  | issueHoldEnd t => exact keep.event (fun _ => rfl) (memoryOk_of_ite fun _ => rfl)
  | commitWalkVisit t => exact own (fun _ => rfl) State.memory_walkVisit
  | commitWalkEnd t => exact own (fun _ => rfl) State.memory_walkEnd
  | arrayTransmissionEnd t => exact own (fun _ => rfl) fun _ => rfl
  | floorTransmissionEnd t => exact own (fun _ => rfl) State.memory_endFloorMessage
  | frameTransmissionEnd t => exact own (fun _ => rfl) State.memory_endLastSegment
  | localAnswerBdSent t => exact own (fun _ => rfl) State.memory_endSentBlock
  | linkPartnerFlowControl t port holding =>
    exact keep.event (fun _ => rfl) (memoryOk_of_ite fun _ => by cases port <;> rfl)
  | arrayLinkDown t => exact keep.event (fun _ => rfl) (memoryOk_of_ite State.memory_loseArray)
  | arrayLinkUp t => exact keep.event (fun _ => rfl) (memoryOk_of_ite fun _ => rfl)
  | floorLinkDown t => exact keep.event (fun _ => rfl) (memoryOk_of_ite State.memory_loseFloor)
  | floorLinkUp t => exact keep.event (fun _ => rfl) (memoryOk_of_ite fun _ => rfl)
  | drainEnd t => exact own (fun _ => rfl) State.memory_drainEnd
  | waitingQgJoins t => exact own (fun _ => rfl) fun s => (Steady.joinGrant s).memory
  | waitingCommitAnswerJoins t =>
    exact own (fun _ => rfl) fun s => ((Steady.joinGrant s).trans (Steady.joinAnswer _)).memory
  | mnHandover t => exact own (fun _ => rfl) fun s => (Steady.joins s).memory
  | allocationQueueServing t => exact own (fun _ => rfl) fun s => (Keeps.refl s).serve.memory

/-- Settles O5: every command keeps the canonical form, and the idle step leaves the memory. -/
theorem stepKeepsMemoryCanonical : Obligations.StepKeepsMemoryCanonical := by
  intro s t ok answers
  unfold step at answers
  split at answers
  · obtain rfl := Host.Outcome.next.inj answers
    exact ok
  · refine exec_keeps_memoryOk _ _ t ?_ answers
    exact ok

end Sys2Proof.Machine
end

section
/-! PROOFS. READS OF STATIONS: a BR that no span answers goes on toward the array, and one that a VALID span answers
starts a local answer with its first BD. -/

namespace Sys2Proof.Machine

open Sys2Proof

variable {s : State} {f : Frame} {r : BlockRead} {i : Nat} {x : Span}

/-! ## A station's BR (R92, R127) -/

theorem exec_stationBlockRead {t : Nat} (taking : s.TakingFrame .floor f) (kind : frameKind f = 1)
    (other : frameDst f ≠ s.straps.station) :
    exec (.stationBlockRead t f) s = .next ((s.stamp t).offerRead f).settle := by
  change execStationBlockRead t f s = _
  unfold execStationBlockRead
  rw [State.arriveFrame_taken taking, if_pos ⟨kind, other⟩]

/-- A BR whose body fails is declined, and so is one that no span answers. -/
theorem State.offerRead_declined (declined : ∀ r, blockReadOf f = some r → s.answerable r = none) :
    s.offerRead f = s.forwardToArray f := by
  unfold State.offerRead
  split
  · rfl
  · rename_i r read
    rw [declined r read]

theorem State.offerRead_answered (read : blockReadOf f = some r) (answers : s.answerable r = some i) :
    s.offerRead f = s.startAnswer i r (frameSrc f) (frameDst f) := by
  unfold State.offerRead
  rw [read]
  dsimp only
  rw [answers]

/-- A VALID span without the CHECK_FAILED mark answers while fewer than 64 answers run. -/
theorem State.answerable_of_valid (found : s.buffer.find { volume := r.volume, page := r.start / 256 } = some i)
    (span : s.buffer.span i = some x) (valid : x.state = .valid) (clean : x.checkFailed = false)
    (room : s.buffer.answers.length < 64) : s.answerable r = some i := by
  unfold State.answerable
  rw [found]
  dsimp only
  rw [span]
  exact if_pos ⟨valid, clean, room⟩

theorem State.forwardToArray_up (up : s.array.linkUp = true) : s.forwardToArray f
    = { s with floor := { s.floor with toArray := s.floor.toArray ++ [f] } } := if_pos up

theorem State.forwardToArray_down (down : s.array.linkUp = false) : s.forwardToArray f = s := by
  unfold State.forwardToArray
  rw [down]
  rfl

/-- Settles O29: a declined BR is placed on the queue toward the array, by the state of the array link. -/
theorem declinedStationReadsAreForwarded : Obligations.DeclinedStationReadsAreForwarded := by
  intro s t f taking kind other declined
  have forwarded : exec (.stationBlockRead t f) s = .next ((s.stamp t).forwardToArray f).settle := by
    rw [exec_stationBlockRead taking kind other, State.offerRead_declined (s := s.stamp t) declined]
  refine ⟨fun up => ?_, fun down => ?_⟩
  · rw [forwarded, State.forwardToArray_up (s := s.stamp t) up]
    rfl
  · rw [forwarded, State.forwardToArray_down (s := s.stamp t) down]

/-! ## The start of a local answer (R92, R93) -/

/-- The record of a local answer as it starts, before it hands over its first BD. -/
def BlockRead.answer (r : BlockRead) (serial i : Nat) (station target : Half) : LocalAnswer :=
  { serial := serial, station := station, target := target, tag := r.tag, span := i, offset := r.start % 256,
    count := r.count, handed := 0, ready := none }

/-- The state in which a local answer hands over its first BD: the span pinned and off the resting list, the answer
listed. -/
def State.pinned (s : State) (i : Nat) (x : Span) (a : LocalAnswer) : State :=
  { s with buffer := { s.buffer.put i { x with pins := x.pins + 1 } with
    resting := s.buffer.resting.filter (fun j => j != i)
    answers := s.buffer.answers ++ [a]
    nextAnswer := s.buffer.nextAnswer + 1 } }

theorem State.startAnswer_eq (span : s.buffer.span i = some x) (station target : Half) :
    s.startAnswer i r station target
      = (s.pinned i x (r.answer s.buffer.nextAnswer i station target)).handBlock
          (r.answer s.buffer.nextAnswer i station target) := by
  unfold State.startAnswer State.setPins
  rw [span]
  rfl

/-- Settles O30: the answer starts in the pinned state, and each clause reads that state after its first BD. -/
theorem stationReadsAreAnsweredLocally : Obligations.StationReadsAreAnsweredLocally := by
  intro s t f r i x taking kind other read found span valid clean room n u
  let a := r.answer s.buffer.nextAnswer i (frameSrc f) (frameDst f)
  let p := (s.stamp t).pinned i x a
  have started : u = p.handBlock a := State.startAnswer_eq (s := s.stamp t) span ..
  have handed := started.trans (p.handBlock_eq a)
  have taken : exec (.stationBlockRead t f) s = .next u.settle := by
    rw [exec_stationBlockRead taking kind other, State.offerRead_answered (s := s.stamp t) read
      (State.answerable_of_valid (s := s.stamp t) found span valid clean room)]
  refine ⟨taken, ?span, ?resting, ?floor, ?streams, ?memory, ?count, ?answer⟩
  all_goals rw [handed]
  case span => exact Keyed.get_put_self ..
  case resting => rfl
  case floor => rfl
  case streams => rfl
  case memory => rfl
  case count => simp [p, State.pinned]
  case answer =>
    refine ⟨{ a with handed := a.handed + n, ready := some (p.answerBlock a) }, ?_, rfl, rfl, Nat.zero_add n, rfl, rfl,
      p.answerBlock a, rfl, rfl, rfl, rfl, rfl, rfl, ?_, rfl⟩
    · exact List.mem_map.2 ⟨a, List.mem_append_right _ (List.mem_singleton_self a), if_pos rfl⟩
    · change (a.handed + n == a.count) = true ↔ n = a.count
      rw [beq_iff_eq, show a.handed = 0 from rfl, Nat.zero_add]

end Sys2Proof.Machine
end

section
/-! PROOFS. THE READ VERBS: what each READ is answered, and the counts as sums over the span records. -/

namespace Sys2Proof.Machine

open Sys2Proof

variable {s : State} {a : Arrival} {req : Word}

/-! ## Management requests that a port takes (R183, R209) -/

theorem exec_manage {c : Instr} {effect : State → State} (taking : s.Taking .array a.src) (len : 8 ≤ a.len)
    (run : exec c s = .next (s.arrive .array c a.time a.src (fun s => s.readableManage a effect))) :
    exec c s = .next (effect (s.stamp a.time)).settle := by
  rw [run, State.arrive_taken taking, State.readableManage_of_le len]

/-! ## READ CLIP (R196) -/

section ReadClip

variable {clip edition : Word} {bank given : Byte}

/-- The fields of a READ CLIP pass its checks: an edition is given for the active bank alone. -/
def ReadClipOk (len : Nat) (clip : Word) (bank given : Byte) : Prop :=
  len = 20 ∧ clip ≠ 0 ∧ (bank = 1 ∧ (given = 0 ∨ given = 1) ∨ bank = 2 ∧ given = 0)

/-- A field with two codes. -/
theorem ite_code_eq_some_iff {b m n : Byte} (apart : m ≠ n) {x y z : Bool} :
    (if b = m then some x else if b = n then some y else none) = some z ↔ b = m ∧ z = x ∨ b = n ∧ z = y := by
  by_cases first : b = m
  · subst first
    simp [apart, eq_comm]
  · by_cases second : b = n
    · subst second
      simp [first, eq_comm]
    · simp [first, second]

theorem bankOf_eq_some_iff {staged : Bool} : bankOf bank = some staged
    ↔ bank = 1 ∧ staged = false ∨ bank = 2 ∧ staged = true := ite_code_eq_some_iff (by decide)

theorem flagOf_eq_some_iff {set : Bool} : flagOf given = some set
    ↔ given = 0 ∧ set = false ∨ given = 1 ∧ set = true := ite_code_eq_some_iff (by decide)

theorem readClipFields_bad {len : Nat} (bad : ¬ ReadClipOk len clip bank given) :
    readClipFields len clip bank given edition = none := by
  unfold readClipFields
  split
  · rename_i staged set named flagged
    refine if_pos (by_contra fun none => bad ?_)
    simp only [not_or, not_not, not_and] at none
    obtain ⟨length, named_clip, alone⟩ := none
    refine ⟨length, named_clip, ?_⟩
    obtain ⟨one, active⟩ | ⟨two, isStaged⟩ := bankOf_eq_some_iff.1 named
    · exact .inl ⟨one, (flagOf_eq_some_iff.1 flagged).imp And.left And.left⟩
    · exact .inr ⟨two, (flagOf_eq_some_iff.1 flagged).elim And.left fun e => absurd e.2 (alone isStaged)⟩
  · rfl

theorem readClipFields_ok {len : Nat} (ok : ReadClipOk len clip bank given) :
    readClipFields len clip bank given edition = some (bank == 2, if given = 1 then some edition else none) := by
  obtain ⟨length, named, ⟨rfl, rfl | rfl⟩ | ⟨rfl, rfl⟩⟩ := ok <;>
    exact if_neg (by simpa [length] using named)

/-- The entry that a READ CLIP names (R196): staged, active by its edition, or active. -/
def TableStore.clipNamed (t : TableStore) (clip edition : Word) (bank given : Byte) : Option (FoundIn × Clip) :=
  if bank = 2 then (t.staged.clip clip).map (fun x => (.staged, x))
  else if given = 1 then t.lookup clip edition
  else (t.active.clip clip).map (fun x => (.active, x))

theorem TableStore.readClip_eq (t : TableStore) : t.readClip clip (bank == 2) (if given = 1 then some edition else none)
    = t.clipNamed clip edition bank given := by
  unfold TableStore.readClip TableStore.clipNamed
  by_cases staged : bank = 2
  · simp only [staged, beq_self_eq_true, if_true]
    cases t.staged.clip clip <;> rfl
  · simp only [staged, beq_eq_false_iff_ne.2 staged, Bool.false_eq_true, if_false]
    by_cases named : given = 1
    · simp only [named, if_true]
    · simp only [named, if_false]
      cases t.active.clip clip <;> rfl

theorem State.takeReadClip_bad (bad : ¬ ReadClipOk a.len clip bank given) :
    s.takeReadClip a req clip bank given edition = s.reply a req .readClip .badField := by
  unfold State.takeReadClip
  rw [readClipFields_bad bad]

theorem State.takeReadClip_missing (ok : ReadClipOk a.len clip bank given)
    (missing : s.tables.clipNamed clip edition bank given = none) :
    s.takeReadClip a req clip bank given edition = s.reply a req .readClip .noSuch := by
  unfold State.takeReadClip
  rw [readClipFields_ok ok]
  dsimp only
  rw [TableStore.readClip_eq, missing]

theorem State.takeReadClip_found (ok : ReadClipOk a.len clip bank given) {place : FoundIn} {x : Clip}
    (found : s.tables.clipNamed clip edition bank given = some (place, x)) : s.takeReadClip a req clip bank given edition
      = s.answerManage a.src req (verbCode .readClip) .ok (.clip place x) := by
  unfold State.takeReadClip
  rw [readClipFields_ok ok]
  dsimp only
  rw [TableStore.readClip_eq, found]

end ReadClip

/-! ## READ STREAM (R197) -/

section ReadStream

variable {b : Byte} {h : Handle}

theorem State.takeReadStream_bad (bad : 127 < b.toNat ∨ a.len ≠ 12) :
    s.takeReadStream a req b = s.reply a req .readStream .badField := by
  unfold State.takeReadStream
  split
  · rfl
  · rename_i named
    refine if_neg (bad.resolve_left fun large => ?_)
    rw [handleOf_of_large large] at named
    cases named

theorem State.takeReadStream_named (named : Names b h) (len : a.len = 12) : s.takeReadStream a req b
    = s.answerManage a.src req (verbCode .readStream) .ok (s.streamBody h) := by
  unfold State.takeReadStream
  rw [handleOf_of_names named]
  exact if_pos len

end ReadStream

/-! ## The counts (R95, R120) -/

/-- The number of FILLING spans whose fetch record has a property. -/
def SpanBuffer.countFilling (b : SpanBuffer) (p : Fetch → Bool) : Nat := b.countSpans (fun x => match x.state with
  | .filling f => p f
  | _ => false)

theorem SpanBuffer.countSpans_fetch (b : SpanBuffer) (p : Fetch → Bool) : b.countSpans (fun x => match x.fetch with
    | none => false
    | some f => p f) = b.countFilling p := by
  unfold SpanBuffer.countFilling
  congr 1
  funext x
  unfold Span.fetch
  cases x.state <;> rfl

theorem SpanBuffer.countSpans_isSome (b : SpanBuffer) :
    b.countSpans (fun x => x.fetch.isSome) = b.countFilling (fun _ => true) := by
  rw [← SpanBuffer.countSpans_fetch]
  congr 1
  funext x
  cases x.fetch <;> rfl

theorem SpanBuffer.freeList_length (b : SpanBuffer) : b.freeList.length = (32768 - b.fresh) + b.freed.length := by
  unfold SpanBuffer.freeList
  rw [List.length_append, List.length_range']
  rfl

theorem Span.referenced_eq (x : Span) : (x.state == .valid && (!x.refs.isEmpty || decide (0 < x.pins)))
    = (x.state == .valid && (x.refs != [] || x.pins != 0)) := by
  congr 2
  · cases x.refs <;> rfl
  · cases x.pins <;> rfl

theorem SpanBuffer.counts_eq (b : SpanBuffer) : b.counts =
    { free := (32768 - b.fresh) + b.freed.length
      filling := b.countFilling (fun _ => true)
      referenced := b.countSpans (fun x => x.state == .valid && (x.refs != [] || x.pins != 0))
      resting := b.resting.length
      stale := b.countSpans (fun x => x.state == .stale)
      waiting := b.waiting.length } := by
  unfold SpanBuffer.counts
  simp only [SpanBuffer.freeList_length, SpanBuffer.countSpans_isSome, Span.referenced_eq]

theorem SpanBuffer.countFetches_eq (b : SpanBuffer) (st : FetchState) :
    b.countFetches st = b.countFilling (fun f => f.state == st) := b.countSpans_fetch _

theorem State.issuedCount_eq (s : State) : s.issuedCount = s.buffer.countFilling (fun f => f.tag.isSome) :=
  s.buffer.countSpans_fetch _

theorem State.fetchReport_eq (s : State) : s.fetchReport =
    { queued := s.buffer.countFilling (fun f => f.state == .queued)
      issued := s.buffer.countFilling (fun f => f.tag.isSome)
      deferred := s.buffer.countFilling (fun f => f.state == .deferred)
      counts := s.fetch.counts } := by
  unfold State.fetchReport
  rw [SpanBuffer.countFetches_eq, SpanBuffer.countFetches_eq, State.issuedCount_eq]

/-- READ SPAN COUNTS and READ FETCH COUNTS have no fields, so that the body's length alone decides. -/
theorem exec_readSpanCounts (taking : s.Taking .array a.src) (len : 8 ≤ a.len) :
    exec (.readSpanCounts a req) s = .next (State.settle (if a.len = 8 then
        (s.stamp a.time).answerManage a.src req 12 .ok (.spanCounts s.buffer.counts)
      else (s.stamp a.time).answerManage a.src req 12 .badField .empty)) :=
  exec_manage (effect := fun s => s.bare a req .readSpanCounts fun s =>
    s.answerManage a.src req (verbCode .readSpanCounts) .ok (.spanCounts s.buffer.counts)) taking len rfl

theorem exec_readFetchCounts (taking : s.Taking .array a.src) (len : 8 ≤ a.len) :
    exec (.readFetchCounts a req) s = .next (State.settle (if a.len = 8 then
        (s.stamp a.time).answerManage a.src req 13 .ok (.fetchCounts s.fetchReport)
      else (s.stamp a.time).answerManage a.src req 13 .badField .empty)) :=
  exec_manage (effect := fun s => s.bare a req .readFetchCounts fun s =>
    s.answerManage a.src req (verbCode .readFetchCounts) .ok (.fetchCounts s.fetchReport)) taking len rfl

/-- Settles O50: how an MA is placed, and then each verb by the checks that it passes. -/
theorem managementReadsAnswerTheState : Obligations.ManagementReadsAnswerTheState := by
  intro s a req
  refine ⟨fun dst verb e body => rfl, fun taking len => ?_⟩
  intro v answered
  have run {c : Instr} (effect : State → State)
      (runs : exec c s = .next (s.arrive .array c a.time a.src (fun s => s.readableManage a effect))) {verb : Byte}
      {e : ManageResult} {body : AnswerBody} (same : effect v = v.answerManage a.src req verb e body) :
      answered c verb e body := (exec_manage taking len runs).trans (settled_congr same)
  refine ⟨fun verb => run (fun s => s.answerManage a.src req verb .badField .empty) rfl rfl,
    fun clip edition bank given => ?clip, fun b => ?stream, fun length => ?counts, fun length => ?lengths⟩
  case clip =>
    intro c ok found
    have reads {e : ManageResult} {body : AnswerBody}
        (same : v.takeReadClip a req clip bank given edition = v.answerManage a.src req 10 e body) :
        answered c 10 e body := run (fun s => s.takeReadClip a req clip bank given edition) rfl same
    exact ⟨fun bad => reads (State.takeReadClip_bad bad),
      fun fine missing => reads (State.takeReadClip_missing (s := v) fine missing),
      fun fine place x present => reads (State.takeReadClip_found (s := v) fine present)⟩
  case stream =>
    have reads {body : AnswerBody} {e : ManageResult}
        (same : v.takeReadStream a req b = v.answerManage a.src req 11 e body) :
        answered (.readStream a req b) 11 e body := run (fun s => s.takeReadStream a req b) rfl same
    refine ⟨fun bad => reads (State.takeReadStream_bad bad), fun h named length => ?_⟩
    have told := State.takeReadStream_named (s := v) (req := req) named length
    refine ⟨fun dead => reads (told.trans (congrArg _ ?_)), fun live => reads (told.trans (congrArg _ ?_))⟩
    · exact if_neg (Bool.eq_false_iff.1 dead)
    · exact if_pos live
  case counts =>
    intro number fetching
    have spans := exec_readSpanCounts (req := req) taking len
    have fetches := exec_readFetchCounts (req := req) taking len
    rw [if_pos length, SpanBuffer.counts_eq] at spans
    rw [if_pos length, State.fetchReport_eq] at fetches
    exact ⟨spans, fetches⟩
  case lengths =>
    have spans := exec_readSpanCounts (req := req) taking len
    have fetches := exec_readFetchCounts (req := req) taking len
    rw [if_neg length] at spans fetches
    exact ⟨spans, fetches⟩

end Sys2Proof.Machine
end

section
/-! PROOFS. WHAT WAITS: the messages that join the array transmit queue, each by itself and then in their order, and the
keys of the allocation queue. -/

namespace Sys2Proof.Machine

open Sys2Proof

variable {s : State}

/-! ## One message joins (R130, R135, R195, R199) -/

theorem State.arrayRoom_iff (s : State) : s.arrayRoom = true ↔ s.array.control.length < 16 := decide_eq_true_iff

theorem State.joinGrant_placed {dst : Half} (waits : s.array.grantWaiting = some dst)
    (room : s.array.control.length < 16) : s.joinGrant
      = { s with array := { s.array with control := s.array.control ++ [.qg dst], grantWaiting := none } } := by
  unfold State.joinGrant
  rw [waits]
  exact if_pos (s.arrayRoom_iff.2 room)

theorem State.joinGrant_stays (stays : s.array.grantWaiting = none ∨ ¬ s.array.control.length < 16) :
    s.joinGrant = s := by
  unfold State.joinGrant
  split
  · rename_i dst waits
    refine if_neg (mt s.arrayRoom_iff.1 (stays.resolve_left fun absent => ?_))
    rw [waits] at absent
    cases absent
  · rfl

theorem State.joinAnswer_placed {m : ManageAnswer} (waits : s.responder.waiting = some m)
    (room : s.array.control.length < 16) : s.joinAnswer
      = { s with array := { s.array with control := s.array.control ++ [.ma m] }
                 responder := { s.responder with waiting := none } } := by
  unfold State.joinAnswer
  rw [waits]
  exact if_pos (s.arrayRoom_iff.2 room)

theorem State.joinAnswer_stays (stays : s.responder.waiting = none ∨ ¬ s.array.control.length < 16) :
    s.joinAnswer = s := by
  unfold State.joinAnswer
  split
  · rename_i m waits
    refine if_neg (mt s.arrayRoom_iff.1 (stays.resolve_left fun absent => ?_))
    rw [waits] at absent
    cases absent
  · rfl

/-- The array port can be handed a notice: its link is UP, and no MN stands in its queue. -/
def State.TakesNotice (s : State) : Prop := s.array.linkUp = true ∧ ∀ m ∈ s.array.control, m.isNotice = false

theorem State.handOver_iff (s : State) :
    (s.array.linkUp && s.arrayRoom && !s.array.control.any ArrayControl.isNotice) = true
      ↔ s.TakesNotice ∧ s.array.control.length < 16 := by
  simp only [Bool.and_eq_true, Bool.not_eq_true', List.any_eq_false, Bool.not_eq_true, s.arrayRoom_iff,
    State.TakesNotice]
  exact and_right_comm

theorem State.handOver_placed {n : Notice} {t : List Notice} (waits : s.responder.notices = n :: t)
    (takes : s.TakesNotice) (room : s.array.control.length < 16) : s.handOver
      = { s with array := { s.array with control := s.array.control ++ [.mn n s.responder.overflow] }
                 responder := { s.responder with notices := t, overflow := false } } := by
  unfold State.handOver
  rw [waits]
  exact if_pos (s.handOver_iff.2 ⟨takes, room⟩)

theorem State.handOver_stays (stays : s.responder.notices = [] ∨ ¬ (s.TakesNotice ∧ s.array.control.length < 16)) :
    s.handOver = s := by
  unfold State.handOver
  split
  · rfl
  · rename_i n t waits
    refine if_neg (mt s.handOver_iff.1 (stays.resolve_left fun none => ?_))
    rw [waits] at none
    cases none

/-! ## The joins by the places that are left -/

/-- The places of the array transmit queue that are left (R123). -/
def State.places (s : State) : Nat := 16 - s.array.control.length

/-- The QG that waits in the port, if any. -/
def State.grants (s : State) : List ArrayControl := s.array.grantWaiting.toList.map (fun dst => .qg dst)

/-- The COMMIT's OK that waits in the responder, if any. -/
def State.answers (s : State) : List ArrayControl := s.responder.waiting.toList.map (fun m => .ma m)

/-- The MN of the front notice, where the port can be handed one. -/
def State.dueNotice (s : State) : List ArrayControl :=
  match s.responder.notices with
  | [] => []
  | n :: _ => if s.array.linkUp = true ∧ ∀ m ∈ s.array.control, m.isNotice = false then [.mn n s.responder.overflow]
    else []

/-- The queue after those of the messages given that find a place have joined. -/
def State.joined (s : State) (l : List ArrayControl) : List ArrayControl := s.array.control ++ l.take s.places

theorem State.joined_nil (s : State) : s.joined [] = s.array.control := by simp [State.joined]

theorem State.joined_singleton (room : s.array.control.length < 16) (m : ArrayControl) :
    s.joined [m] = s.array.control ++ [m] := by
  unfold State.joined State.places
  rw [List.take_of_length_le]
  simp only [List.length_singleton]
  omega

theorem State.joined_full (full : ¬ s.array.control.length < 16) (l : List ArrayControl) :
    s.joined l = s.array.control := by
  unfold State.joined State.places
  rw [show 16 - s.array.control.length = 0 by omega, List.take_zero, List.append_nil]

theorem State.places_pos_iff (s : State) : 0 < s.places ↔ s.array.control.length < 16 := by
  unfold State.places
  omega

/-- Messages that join after others find the places that those have left. -/
theorem State.places_joined {t : State} {l : List ArrayControl} (queue : t.array.control = s.joined l) :
    t.places = s.places - l.length := by
  unfold State.places
  rw [queue]
  unfold State.joined State.places
  simp only [List.length_append, List.length_take]
  omega

theorem State.joined_joined {t : State} {l : List ArrayControl} (queue : t.array.control = s.joined l)
    (m : List ArrayControl) : t.joined m = s.joined (l ++ m) := by
  have left := State.places_joined queue
  unfold State.joined at *
  rw [left, queue, List.take_append, List.append_assoc]

theorem State.joinGrant_eq (s : State) : s.joinGrant
    = { s with array := { s.array with
        control := s.joined s.grants
        grantWaiting := if 0 < s.places then none else s.array.grantWaiting } } := by
  unfold State.grants
  by_cases room : s.array.control.length < 16
  · rw [if_pos (s.places_pos_iff.2 room)]
    cases waits : s.array.grantWaiting with
    | none =>
      rw [State.joinGrant_stays (.inl waits), Option.toList_none, List.map_nil, s.joined_nil, ← waits]
    | some dst =>
      rw [State.joinGrant_placed waits room, Option.toList_some, List.map_singleton, State.joined_singleton room]
  · rw [State.joinGrant_stays (.inr room), if_neg (mt s.places_pos_iff.1 room), State.joined_full room]

theorem State.joinAnswer_eq (s : State) : s.joinAnswer
    = { s with array := { s.array with control := s.joined s.answers }
               responder := { s.responder with
                 waiting := if 0 < s.places then none else s.responder.waiting } } := by
  unfold State.answers
  by_cases room : s.array.control.length < 16
  · rw [if_pos (s.places_pos_iff.2 room)]
    cases waits : s.responder.waiting with
    | none =>
      rw [State.joinAnswer_stays (.inl waits), Option.toList_none, List.map_nil, s.joined_nil, ← waits]
    | some m =>
      rw [State.joinAnswer_placed waits room, Option.toList_some, List.map_singleton, State.joined_singleton room]
  · rw [State.joinAnswer_stays (.inr room), if_neg (mt s.places_pos_iff.1 room), State.joined_full room]

theorem State.dueNotice_none (none : s.responder.notices = [] ∨ ¬ s.TakesNotice) : s.dueNotice = [] := by
  unfold State.dueNotice
  split
  · rfl
  · rename_i n t waits
    refine if_neg (none.resolve_left fun empty => ?_)
    rw [waits] at empty
    cases empty

theorem State.dueNotice_some {n : Notice} {t : List Notice} (waits : s.responder.notices = n :: t)
    (takes : s.TakesNotice) : s.dueNotice = [.mn n s.responder.overflow] := by
  unfold State.dueNotice
  rw [waits]
  exact if_pos takes

theorem State.handOver_eq (s : State) : s.handOver
    = { s with array := { s.array with control := s.joined s.dueNotice }
               responder := if s.dueNotice ≠ [] ∧ 0 < s.places then
                   { s.responder with notices := s.responder.notices.tail, overflow := false }
                 else s.responder } := by
  by_cases room : s.array.control.length < 16
  · by_cases stays : s.responder.notices = [] ∨ ¬ s.TakesNotice
    · rw [State.handOver_stays (stays.imp_right (mt And.left)), State.dueNotice_none stays, s.joined_nil,
        if_neg fun due => due.1 rfl]
    · obtain ⟨some, takes⟩ := not_or.1 stays
      obtain ⟨n, t, waits⟩ := List.exists_cons_of_ne_nil some
      rw [State.handOver_placed waits (not_not.1 takes) room, State.dueNotice_some waits (not_not.1 takes),
        State.joined_singleton room, if_pos ⟨List.cons_ne_nil _ _, s.places_pos_iff.2 room⟩, waits]
      rfl
  · rw [State.handOver_stays (.inr fun due => room due.2), State.joined_full room,
      if_neg fun due => room (s.places_pos_iff.1 due.2)]

/-! ## The joins in their order -/

/-- The state after a waiting QG has joined, or has found no place, with the messages given on the queue. -/
def State.grantJoined (s : State) (l : List ArrayControl) : State :=
  { s with array := { s.array with
      control := s.joined l
      grantWaiting := if 0 < s.places then none else s.array.grantWaiting } }

/-- The state after a COMMIT's OK, too, has joined, or has found no place. -/
def State.answerJoined (s : State) (l : List ArrayControl) : State :=
  { s.grantJoined l with responder := { s.responder with
      waiting := if s.grants.length < s.places then none else s.responder.waiting } }

theorem State.joinAnswer_joinGrant (s : State) :
    s.joinGrant.joinAnswer = s.answerJoined (s.grants ++ s.answers) := by
  have first : s.joinGrant = s.grantJoined s.grants := s.joinGrant_eq
  have queue : (s.grantJoined s.grants).array.control = s.joined s.grants := rfl
  rw [first, State.joinAnswer_eq, State.joined_joined queue, State.places_joined queue]
  simp only [Nat.sub_pos_iff_lt]
  rfl

/-- A QG or an MA in the queue is no MN. -/
theorem State.takesNotice_joined (s : State) :
    (s.answerJoined (s.grants ++ s.answers)).TakesNotice ↔ s.TakesNotice := by
  refine and_congr Iff.rfl ⟨fun none m queued => none m (List.mem_append_left _ queued), fun none m queued => ?_⟩
  obtain queued | joined := List.mem_append.1 (show m ∈ s.joined (s.grants ++ s.answers) from queued)
  · exact none m queued
  · obtain granted | answered := List.mem_append.1 (List.mem_of_mem_take joined)
    · obtain ⟨dst, -, rfl⟩ := List.mem_map.1 granted
      rfl
    · obtain ⟨answer, -, rfl⟩ := List.mem_map.1 answered
      rfl

theorem State.dueNotice_joined (s : State) :
    (s.answerJoined (s.grants ++ s.answers)).dueNotice = s.dueNotice := by
  by_cases stays : s.responder.notices = [] ∨ ¬ s.TakesNotice
  · rw [State.dueNotice_none stays]
    exact State.dueNotice_none (stays.imp_right (mt s.takesNotice_joined.1))
  · obtain ⟨some, takes⟩ := not_or.1 stays
    obtain ⟨n, t, waits⟩ := List.exists_cons_of_ne_nil some
    rw [State.dueNotice_some waits (not_not.1 takes)]
    exact State.dueNotice_some waits (s.takesNotice_joined.2 (not_not.1 takes))

/-- The state after all three joins. -/
theorem State.joins_eq (s : State) : s.joins
    = if s.dueNotice ≠ [] ∧ (s.grants ++ s.answers).length < s.places then
        { s.answerJoined (s.grants ++ s.answers ++ s.dueNotice) with
          responder := { (s.answerJoined (s.grants ++ s.answers ++ s.dueNotice)).responder with
            notices := s.responder.notices.tail, overflow := false } }
      else s.answerJoined (s.grants ++ s.answers ++ s.dueNotice) := by
  have queue : (s.answerJoined (s.grants ++ s.answers)).array.control = s.joined (s.grants ++ s.answers) := rfl
  unfold State.joins
  rw [State.joinAnswer_joinGrant, State.handOver_eq, s.dueNotice_joined, State.joined_joined queue,
    State.places_joined queue]
  simp only [Nat.sub_pos_iff_lt]
  split <;> rfl

/-! ## The allocation queue (R81) -/

/-- The span that an allocation makes of a key: FILLING, with the referrers given and a fetch of their earliest
deadline. -/
def Span.allocated (k : Key) (refs : List Referrer) (sequence : Long) : Span :=
  { key := k, state := .filling (Fetch.create (earliest refs) sequence), refs := refs, pins := 0, refill := false,
    checkFailed := false }

theorem State.allocate_none (full : s.buffer.take = none) (k : Key) (refs : List Referrer) :
    s.allocate k refs = none := by
  unfold State.allocate
  rw [full]

theorem State.allocate_some {i : Nat} {b : SpanBuffer} (taken : s.buffer.take = some (i, b)) (k : Key)
    (refs : List Referrer) : s.allocate k refs = some (i, { s with
      fetch := { s.fetch with enqueue := s.fetch.enqueue + 1 }
      buffer := b.put i (Span.allocated k refs s.fetch.enqueue) }) := by
  unfold State.allocate
  rw [taken]
  rfl

/-- No key is served while no span can be taken. -/
theorem State.serve_of_full (full : s.buffer.take = none) : s.serve = s := by
  cases waits : s.buffer.waiting with
  | nil => exact State.serve_of_nil waits
  | cons w rest =>
    unfold State.serve
    rw [waits, State.serveKeys, State.allocate_none full, ← waits]

/-- The state in which the front key of the allocation queue has been served. -/
def State.servedFront (s : State) (w : WaitingKey) (rest : List WaitingKey) (i : Nat) (b : SpanBuffer) : State :=
  State.nameSpan { s with
    fetch := { s.fetch with enqueue := s.fetch.enqueue + 1 }
    buffer := { b.put i (Span.allocated w.key w.slots s.fetch.enqueue) with waiting := rest } } w.key (some i) w.slots

theorem State.serve_front {w : WaitingKey} {rest : List WaitingKey} {i : Nat} {b : SpanBuffer}
    (waits : s.buffer.waiting = w :: rest) (taken : s.buffer.take = some (i, b)) :
    s.serve = (s.servedFront w rest i b).serve := by
  rw [State.serve_cons waits (State.allocate_some taken ..), ← State.nameSpan_withBuffer]
  congr 2
  rw [(State.nameSpan_mapsSlots ..).buffer]

theorem State.servedFront_mapsSlots (s : State) (w : WaitingKey) (rest : List WaitingKey) (i : Nat) (b : SpanBuffer) :
    MapsSlots { s with
      fetch := { s.fetch with enqueue := s.fetch.enqueue + 1 }
      buffer := { b.put i (Span.allocated w.key w.slots s.fetch.enqueue) with waiting := rest } }
      (s.servedFront w rest i b) (fun h z => if NamesSlot w.slots h z then z.name w.key (some i) else z) :=
  State.nameSpan_mapsSlots ..

/-- Settles O56: the three joins by the places left, each of them by itself, and the keys by the spans that can be
taken. -/
theorem waitingMessagesAndKeysMoveOn : Obligations.WaitingMessagesAndKeysMoveOn := by
  intro s time v room queued grant answer notice joined places first second third
  have grants : v.joinGrant = first grant := v.joinGrant_eq
  have answers : v.joinGrant.joinAnswer = second (grant ++ answer) := v.joinAnswer_joinGrant
  have notices : v.joins = third (grant ++ answer ++ notice) := v.joins_eq
  refine ⟨⟨settled_congr grants, settled_congr answers, settled_congr notices, grants, answers, notices,
    ArrayControl.isNotice_iff⟩, fun dst waits space => ?grant, fun stays => ?noGrant, fun absent => ?afterGrant,
    fun full => ?full, rfl, State.serve_of_nil (s := v), State.serve_of_full (s := v),
    fun w rest i b waits taken => ?served, fun w i b waits taken => ?servedLast⟩
  case grant => exact settled_congr (State.joinGrant_placed (s := v) waits space)
  case noGrant => exact settled_congr (State.joinGrant_stays (s := v) stays)
  case afterGrant =>
    have alone : v.joinGrant = v := State.joinGrant_stays (.inl absent)
    have answering : v.joinGrant.joinAnswer = v.joinAnswer := congrArg State.joinAnswer alone
    refine ⟨fun m waits space => settled_congr (answering.trans ?_), fun none => ?_⟩
    · exact State.joinAnswer_placed (s := v) waits space
    · have both : v.joinGrant.joinAnswer = v := answering.trans (State.joinAnswer_stays (s := v) (.inl none))
      have handed : v.joins = v.handOver := congrArg State.handOver both
      refine ⟨settled_congr both, fun n t waits up space clear => settled_congr (handed.trans ?_),
        fun stays => settled_congr (handed.trans ?_)⟩
      · exact State.handOver_placed (s := v) waits ⟨up, clear⟩ space
      · refine State.handOver_stays (s := v) (stays.imp_right fun refused takes => ?_)
        obtain ⟨⟨up, clear⟩, -⟩ := takes
        obtain down | ⟨m, queued, notice⟩ := refused
        · exact absurd (up.symm.trans down) (by decide)
        · exact absurd ((clear m queued).symm.trans notice) (by decide)
  case full =>
    have both : v.joinGrant.joinAnswer = v := by
      rw [State.joinGrant_stays (s := v) (.inr full)]
      exact State.joinAnswer_stays (.inr full)
    refine ⟨settled_congr both, settled_congr ((congrArg State.handOver both).trans ?_)⟩
    exact State.handOver_stays (.inr fun due => full due.2)
  case served =>
    intro x waiting named
    have maps := v.servedFront_mapsSlots w rest i b
    have fetched := congrArg State.fetch maps.rest
    refine ⟨v.servedFront w rest i b, State.serve_front (s := v) waits taken, maps.buffer, fetched, maps.rest.trans ?_,
      fun h => maps.window h⟩
    rw [maps.buffer, fetched]
  case servedLast =>
    have maps := v.servedFront_mapsSlots w [] i b
    have served : v.serve = v.servedFront w [] i b := by
      rw [State.serve_front (s := v) waits taken]
      exact State.serve_of_nil (by rw [maps.buffer])
    rw [served, maps.buffer, maps.rest]
    exact ⟨rfl, rfl, SpanBuffer.span_put ..⟩

end Sys2Proof.Machine
end

section
/-! PROOFS. REWRITE NOTICES: the spans that the directory finds for the covered keys, what an RN does to one of them, and
the split of a VALID span in use. -/

namespace Sys2Proof.Machine

open Sys2Proof

variable {s : State} {i : Nat} {x : Span}

/-! ## The covered spans (R77, R89) -/

theorem Span.found_iff (x : Span) : x.found = true ↔ x.state ≠ .stale := by
  unfold Span.found
  cases x.state <;> simp

theorem Rewrite.covers_iff (w : Rewrite) (k : Key) : w.covers k = true
    ↔ k.volume = w.volume ∧ w.start / 256 ≤ k.page ∧ k.page ≤ (w.start + w.count - 1) / 256 := by
  simp [Rewrite.covers, and_assoc]

theorem mem_insertByPage (e d : Nat × Key) (l : List (Nat × Key)) : d ∈ insertByPage e l ↔ d = e ∨ d ∈ l := by
  induction l with
  | nil => simp [insertByPage]
  | cons y l ih =>
    unfold insertByPage
    split
    · exact List.mem_cons
    · rw [List.mem_cons, List.mem_cons, ih]
      exact or_left_comm

theorem mem_foldr_insertByPage (d : Nat × Key) (l : List (Nat × Span)) :
    d ∈ l.foldr (fun e l => insertByPage (e.1, e.2.key) l) [] ↔ ∃ e ∈ l, d = (e.1, e.2.key) := by
  induction l with
  | nil => simp
  | cons e l ih => rw [List.foldr_cons, mem_insertByPage, ih, List.exists_mem_cons_iff]

theorem State.mem_covered (s : State) (w : Rewrite) (i : Nat) (k : Key) : (i, k) ∈ s.covered w
    ↔ ∃ x : Span, (i, x) ∈ s.buffer.spans ∧ x.key = k ∧ x.state ≠ .stale ∧ w.covers k = true := by
  unfold State.covered
  rw [mem_foldr_insertByPage]
  simp only [List.mem_filter, Bool.and_eq_true, Span.found_iff]
  refine ⟨?_, ?_⟩
  · rintro ⟨⟨j, x⟩, ⟨listed, covers, stands⟩, same⟩
    obtain ⟨rfl, rfl⟩ := Prod.mk.inj same
    exact ⟨x, listed, rfl, stands, covers⟩
  · rintro ⟨x, listed, rfl, stands, covers⟩
    exact ⟨(i, x), ⟨listed, covers, stands⟩, rfl⟩

theorem State.rewriteSpans_eq_foldl (l : List (Nat × Key)) :
    ∀ s : State, s.rewriteSpans l = l.foldl (fun z e => z.rewriteSpan e.1 e.2) s := by
  induction l with
  | nil => exact fun _ => rfl
  | cons e l ih => exact fun s => ih (s.rewriteSpan e.1 e.2)

theorem State.rewrite_eq_foldl (s : State) (w : Rewrite) :
    s.rewrite w = (s.covered w).foldl (fun z e => z.rewriteSpan e.1 e.2) s := State.rewriteSpans_eq_foldl _ s

/-! ## An RN that the array port takes (R126, R206) -/

section Taken

variable {f : Frame}

theorem exec_rewriteNotice {t : Nat} (taking : s.TakingFrame .array f) (kind : frameKind f = 4) :
    exec (.rewriteNotice t f) s = .next ((s.stamp t).takeRewrite f).settle := by
  change execRewriteNotice t f s = _
  unfold execRewriteNotice
  rw [State.arriveFrame_taken taking, if_pos kind]

theorem State.takeRewrite_bad (bad : rewriteOf f = none) : s.takeRewrite f = s := by
  simp only [State.takeRewrite, bad]

theorem State.takeRewrite_read {w : Rewrite} (read : rewriteOf f = some w) : s.takeRewrite f
    = if frameDst f = s.straps.station then s.rewrite w else (s.rewrite w).forwardToFloor f := by
  simp only [State.takeRewrite, read]

end Taken

/-! ## One span (R89, R91) -/

theorem State.rewriteSpan_filling (span : s.buffer.span i = some x) {g : Fetch} (filling : x.state = .filling g) :
    s.rewriteSpan i x.key = s.putSpan i { x with refill := true } := by
  unfold State.rewriteSpan
  rw [span]
  dsimp only
  rw [if_pos rfl, filling]

theorem State.rewriteSpan_valid (span : s.buffer.span i = some x) (valid : x.state = .valid) :
    s.rewriteSpan i x.key = if x.refs = [] ∧ x.pins = 0 then
        State.freeSpan { s with buffer := { s.buffer with resting := s.buffer.resting.filter (fun j => j != i) } } i
      else s.split i x := by
  unfold State.rewriteSpan
  rw [span]
  dsimp only
  rw [if_pos rfl, valid]

/-- A resting span becomes FREE; while no key waits, it then stands at the end of the free list. -/
theorem State.rewriteSpan_resting (span : s.buffer.span i = some x) (valid : x.state = .valid) (refs : x.refs = [])
    (pins : x.pins = 0) (idle : s.buffer.waiting = []) : s.rewriteSpan i x.key
      = { s with buffer := { s.buffer with
          spans := Keyed.drop s.buffer.spans i
          freed := s.buffer.freed ++ [i]
          resting := s.buffer.resting.filter (fun j => j != i) } } :=
  (State.rewriteSpan_valid span valid).trans ((if_pos ⟨refs, pins⟩).trans (State.serve_of_nil idle))

/-! ## The split of a VALID span in use (R70, R90) -/

/-- A slot of stream `h` after a split of a span of key `k`: one that stays with the STALE span takes the STALE mark, and
one that moves takes its marks from the span records of `q`. -/
def Slot.split (q : State) (stays moves : List Referrer) (k : Key) (span : Option Nat) (h : Handle) (z : Slot) : Slot :=
  let y := if NamesSlot stays h z then { z with stale := true } else z
  if NamesSlot moves h z then y.moved q k span else y

/-- Marking the slots that stay and then moving the others maps the slots of every window once. The move begins with the
records of `q`, in the windows that the marks leave. -/
theorem State.moveSlots_staleSlots (p q : State) (stays moves : List Referrer) (k : Key) (span : Option Nat) :
    ∃ windows : Vector Window 128,
      State.moveSlots { q with windows := (p.staleSlots stays).windows } k span moves = { q with windows := windows }
      ∧ ∀ h : Handle, windows[h] = { slots := (p.window h).slots.map (Slot.split q stays moves k span h)
                                     sending := (p.window h).sending.map (Slot.split q stays moves k span h)
                                     cursor := (p.window h).cursor } := by
  let r : State := { q with windows := (p.staleSlots stays).windows }
  have moved := r.moveSlots_mapsSlots k span moves q rfl
  have marked := p.staleSlots_mapsSlots stays
  have named (h : Handle) (z : Slot) :
      NamesSlot moves h (if NamesSlot stays h z then { z with stale := true } else z) ↔ NamesSlot moves h z := by
    split <;> exact Iff.rfl
  have each (h : Handle) : ((fun z => if NamesSlot moves h z then z.moved q k span else z)
      ∘ fun z => if NamesSlot stays h z then { z with stale := true } else z) = Slot.split q stays moves k span h := by
    funext z
    simp only [Function.comp, named]
    rfl
  refine ⟨_, moved.rest, fun h => (moved.window h).trans ?_⟩
  rw [show r.window h = (p.staleSlots stays).window h from rfl, marked.window]
  simp only [List.map_map, each]

/-! What the slots that move come to use: nothing where none moves, a place in the allocation queue, or a new span. -/

theorem State.moveUsers_waits {moves : List Referrer} (users : moves ≠ []) (full : s.buffer.take = none) (k : Key) :
    s.moveUsers k moves = State.moveSlots { s with buffer := { s.buffer with
      waiting := s.buffer.waiting ++ [{ key := k, slots := moves }] } } k none moves := by
  obtain ⟨r, l, rfl⟩ := List.exists_cons_of_ne_nil users
  unfold State.moveUsers
  dsimp only
  rw [State.allocate_none full]
  rfl

theorem State.moveUsers_takes {moves : List Referrer} (users : moves ≠ []) {j : Nat} {b : SpanBuffer}
    (taken : s.buffer.take = some (j, b)) (k : Key) : s.moveUsers k moves = State.moveSlots { s with
      fetch := { s.fetch with enqueue := s.fetch.enqueue + 1 }
      buffer := b.put j (Span.allocated k moves s.fetch.enqueue) } k (some j) moves := by
  obtain ⟨r, l, rfl⟩ := List.exists_cons_of_ne_nil users
  unfold State.moveUsers
  dsimp only
  rw [State.allocate_some taken]

theorem State.freeUnused_stale (span : s.buffer.span i = some x) (stale : x.state = .stale) :
    s.freeUnused i = if x.refs = [] ∧ x.pins = 0 then s.freeSpan i else s := by
  unfold State.freeUnused
  rw [span]
  simp only [stale, true_and]

/-- The record of a span that a split has made STALE. -/
def Span.staled (x : Span) : Span := { x with state := .stale, refs := x.refs.filter (fun r => r.sending) }

/-- A split ends in a state `q` but for its windows, or with its span freed, where the slots that move do so from the
records of `q`. -/
theorem State.split_ends {p q : State} (start : s.putSpan i x.staled = p) {span : Option Nat}
    (users : State.moveUsers { p with windows := (p.staleSlots x.staled.refs).windows } x.key
        (x.refs.filter (fun r => !r.sending))
      = State.moveSlots { q with windows := (p.staleSlots x.staled.refs).windows } x.key span
          (x.refs.filter (fun r => !r.sending)))
    (record : q.buffer.span i = some x.staled) :
    ∃ windows : Vector Window 128,
      (∀ h : Handle,
        let slot := Slot.split q x.staled.refs (x.refs.filter (fun r => !r.sending)) x.key span h
        windows[h] = { slots := (s.window h).slots.map slot, sending := (s.window h).sending.map slot,
                       cursor := (s.window h).cursor })
      ∧ s.split i x = if x.staled.refs = [] ∧ x.pins = 0 then State.freeSpan { q with windows := windows } i
          else { q with windows := windows } := by
  obtain ⟨windows, moved, slots⟩ := p.moveSlots_staleSlots q x.staled.refs (x.refs.filter (fun r => !r.sending)) x.key span
  subst start
  refine ⟨windows, slots, ?_⟩
  have marked := (s.putSpan i x.staled).staleSlots_mapsSlots x.staled.refs
  have ended : s.split i x = State.freeUnused { q with windows := windows } i := by
    rw [← moved, ← users, ← marked.rest]
    rfl
  exact ended.trans (State.freeUnused_stale (s := { q with windows := windows }) record rfl)

/-- Settles O32: the covered spans as a fold, one span by its state, and the split by what the moving slots come to use. -/
theorem rewriteNoticesActAndPassOn : Obligations.RewriteNoticesActAndPassOn := by
  refine ⟨fun s t f taking kind => ?notice, fun s i x span => ?one⟩
  case notice =>
    have taken := exec_rewriteNotice (t := t) taking kind
    refine ⟨fun bad => ?_, fun w read => ?_⟩
    · rw [taken, State.takeRewrite_bad bad]
    · intro u
      rw [State.takeRewrite_read read] at taken
      have folded : u = (s.covered w).foldl (fun z e => z.rewriteSpan e.1 e.2) (s.stamp t) :=
        (s.stamp t).rewrite_eq_foldl w
      refine ⟨fun own => ?_, fun other => ?_, ((Quiet.refl _).rewrite w).streams, ((Keeps.refl _).rewrite w).memory,
        folded, fun i k => ?_, fun none => ?_, fun i k x one span key => ?_⟩
      · rw [taken, if_pos (show frameDst f = (s.stamp t).straps.station from own)]
      · rw [taken, if_neg (show ¬ frameDst f = (s.stamp t).straps.station from other)]
      · simp only [State.mem_covered, Rewrite.covers_iff]
      · rw [folded, none]
        rfl
      · subst key
        have single : u = (s.stamp t).rewriteSpan i x.key := by
          rw [folded, one]
          rfl
        refine ⟨fun g filling => single.trans (State.rewriteSpan_filling (s := s.stamp t) span filling),
          fun valid refs pins idle => ?_⟩
        rw [single, State.rewriteSpan_resting (s := s.stamp t) span valid refs pins idle]
        exact ⟨Keyed.get_drop_self .., (List.append_assoc ..).symm, rfl⟩
  case one =>
    intro u freed
    refine ⟨fun g filling => State.rewriteSpan_filling span filling, fun valid refs pins => ?_, fun valid used => ?_⟩
    · exact (State.rewriteSpan_valid span valid).trans (if_pos ⟨refs, pins⟩)
    · intro stays moves p named unused ends
      have splits : u = s.split i x := by
        refine (State.rewriteSpan_valid span valid).trans (if_neg fun idle => ?_)
        exact used.elim (· idle.1) (· idle.2)
      have record : p.buffer.span i = some x.staled := State.span_putSpan ..
      let marked : State := { p with windows := (p.staleSlots stays).windows }
      have ended {q : State} {o : Option Nat}
          (users : marked.moveUsers x.key moves
            = State.moveSlots { q with windows := (p.staleSlots stays).windows } x.key o moves)
          (record : q.buffer.span i = some x.staled) : ends q o := by
        obtain ⟨windows, slots, result⟩ := State.split_ends rfl users record
        exact ⟨windows, slots, fun inUse => splits.trans (result.trans (if_neg inUse)),
          fun free => splits.trans (result.trans (if_pos free))⟩
      refine ⟨fun none => ended (by rw [none]; rfl) record,
        fun users full => ended (State.moveUsers_waits (s := marked) users full _) record,
        fun j b users taken other => ended (State.moveUsers_takes (s := marked) users taken _) ?_⟩
      refine (Keyed.get_put_of_ne _ _ (Ne.symm other)).trans ?_
      exact (SpanBuffer.span_of_take taken (Ne.symm other)).trans record

end Sys2Proof.Machine
end

section
/-! PROOFS. BLOCK DATA: the BD that is stale, the one that is stored, and the ways in which an attempt ends. -/

namespace Sys2Proof.Machine

open Sys2Proof

variable {s : State} {a : Arrival} {i : Nat} {x : Span} {f : Fetch}

/-! ## Block data (R107, R108) -/

section BlockData

variable {tag : Half} {offset count : Byte} {final : Bool} {total : Half} {check : Word} {data : List Byte} {len : Nat}

theorem exec_blockDataForPart (taking : s.Taking .array a.src) :
    exec (.blockDataForPart a tag offset count final total check data) s
      = .next (State.settle ((s.stamp a.time).blockData a.len tag offset.toNat count.toNat final total.toNat check
          data).drainEnd) := by
  change execBlockDataForPart a tag offset count final total check data s = _
  unfold execBlockDataForPart
  rw [State.arrive_taken taking]

/-- The BD carries one or two blocks, whole, and stands where the attempt goes on. -/
def Fetch.Continues (f : Fetch) (offset count : Byte) (len : Nat) : Prop :=
  (count = 1 ∨ count = 2) ∧ len = 12 + 4096 * count.toNat ∧ offset.toNat = f.base + f.received
    ∧ offset.toNat + count.toNat ≤ 256

theorem blocksInOrder_iff : blocksInOrder f offset.toNat count.toNat len = true ↔ f.Continues offset count len := by
  have one : count.toNat = 1 ↔ count = 1 := BitVec.toNat_inj (y := 1#8)
  have two : count.toNat = 2 ↔ count = 2 := BitVec.toNat_inj (y := 2#8)
  simp [blocksInOrder, Fetch.Continues, one, two, and_assoc]

/-- The record of an attempt that has received further blocks. -/
def Fetch.extended (f : Fetch) (count : Byte) (blocks : List Byte) : Fetch :=
  { f with received := f.received + count.toNat, check := extendCheck f.check blocks }

/-- The state after the blocks of a BD have been stored in a span's page. -/
def State.stored (s : State) (i : Nat) (x : Span) (offset : Byte) (blocks : List Byte) (g : Fetch) : State :=
  (s.store (blockAddress i offset.toNat) blocks).putSpan i { x with state := .filling g }

/-- A BD whose tag is not current, or whose record waits for its continuation, is stale. -/
theorem State.blockData_stale (stale : s.currentTag tag.toNat = none ∨ ∃ (i : Nat) (f : Fetch),
      s.currentTag tag.toNat = some i ∧ s.buffer.fetch i = some f ∧ f.waiting = true) (offset count total : Nat) :
    s.blockData len tag offset count final total check data = s.staleReply := by
  unfold State.blockData
  obtain old | ⟨i, f, current, fetch, waiting⟩ := stale
  · rw [old]
  · obtain ⟨x, span, filling⟩ : ∃ x, s.buffer.span i = some x ∧ x.fetch = some f := by
      unfold SpanBuffer.fetch at fetch
      split at fetch
      · cases fetch
      · exact ⟨_, ‹_›, fetch⟩
    rw [current]
    dsimp only
    rw [span]
    dsimp only
    rw [filling]
    exact if_pos waiting

/-- A BD of a current attempt is stored where it is in order, and fails the attempt where it is not. -/
theorem State.blockData_current (current : s.currentTag tag.toNat = some i) (span : s.buffer.span i = some x)
    (filling : x.state = .filling f) (running : f.waiting = false) :
    (¬ f.Continues offset count len →
      s.blockData len tag offset.toNat count.toNat final total.toNat check data = s.failedAttempt i false)
    ∧ (f.Continues offset count len →
      let blocks := data.take (4096 * count.toNat)
      let g := f.extended count blocks
      s.blockData len tag offset.toNat count.toNat final total.toNat check data
        = if final = true then (s.stored i x offset blocks g).finalBlock i x g total.toNat check
          else s.stored i x offset blocks g) := by
  unfold State.blockData
  rw [current]
  dsimp only
  rw [span]
  dsimp only
  rw [Span.fetch_eq_some_iff.2 filling]
  dsimp only
  rw [if_neg (Bool.eq_false_iff.1 running)]
  exact ⟨fun broken => if_neg (mt blocksInOrder_iff.1 broken), fun good => if_pos (blocksInOrder_iff.2 good)⟩

end BlockData

/-- Settles O33, by the reason for which the BD is stale. -/
theorem staleBlockDataIsCounted : Obligations.StaleBlockDataIsCounted := by
  intro s a tag offset count final total check data taking stale n u
  rw [exec_blockDataForPart taking, State.blockData_stale (s := s.stamp a.time) stale]
  rfl

/-- Settles O34: the blocks of an in-order BD are all of its data, and the memory reads as after one write. -/
theorem blockDataIsStoredInOrder : Obligations.BlockDataIsStoredInOrder := by
  intro s a tag offset count total check data i x f taking current span filling running blocks len whole place last
    address g u
  have all : data.take (4096 * count.toNat) = data := List.take_of_length_le (Nat.le_of_eq whole)
  have result : (s.stamp a.time).blockData a.len tag offset.toNat count.toNat false total.toNat check data = u := by
    have stored := (State.blockData_current (s := s.stamp a.time) (final := false) (total := total) (check := check)
      (data := data) current span filling running).2 ⟨blocks, len, place, last⟩
    rw [all] at stored
    exact stored
  refine ⟨?_, State.span_putSpan .., Memory.readBytes_write .., fun y outside => ?_⟩
  · rw [exec_blockDataForPart taking, result]
  · exact Memory.read_write_outside _ _ _ _ outside

/-! ## The end of an attempt (R109, R110) -/

/-- The tag pool, the queues and the counts of the fetch scheduler stand apart from the record of a span. -/
theorem State.fetch_putFetch (s : State) (i : Nat) (f : Fetch) : (s.putFetch i f).fetch = s.fetch := by
  unfold State.putFetch
  split <;> rfl

section FinalBlock

variable {total : Nat} {check : Word}

theorem State.finalBlock_miscounted (differs : total ≠ f.received) :
    s.finalBlock i x f total check = s.failedAttempt i false := by
  unfold State.finalBlock
  exact if_pos differs

theorem State.finalBlock_matching (counted : total = f.received) (same : check = f.check) :
    s.finalBlock i x f total check = s.goodAttempt i f := by
  unfold State.finalBlock
  rw [if_neg (not_not_intro counted), if_pos same]

/-- A check word that differs fails the attempt in REFETCH mode, and is only reported in REPORT mode. -/
theorem State.finalBlock_mismatched (counted : total = f.received) (differs : check ≠ f.check) :
    (s.tables.active.policy.checkMode = .refetch → s.finalBlock i x f total check = s.failedAttempt i true)
    ∧ (s.tables.active.policy.checkMode = .report → s.finalBlock i x f total check
      = (((s.putFetch i { f with report := true }).count fun c => { c with mismatches := c.mismatches + 1 }).pushNotice
          (.checkFailed x.key)).goodAttempt i { f with report := true }) := by
  unfold State.finalBlock
  rw [if_neg (not_not_intro counted), if_neg differs]
  exact ⟨fun mode => by rw [mode], fun mode => by rw [mode]⟩

theorem State.goodAttempt_whole (whole : f.base + f.received = 256) : s.goodAttempt i f = s.completePage i f := by
  unfold State.goodAttempt
  exact if_pos whole

theorem State.goodAttempt_short (short : f.base + f.received ≠ 256) : s.goodAttempt i f = s.shortCompletion i f := by
  unfold State.goodAttempt
  exact if_neg short

end FinalBlock

/-- Settles O35: the order of the BD, its total, its check word by the check mode, and a good attempt by its length and
the quiesce state. -/
theorem finalBlockDataEndsTheAttempt : Obligations.FinalBlockDataEndsTheAttempt := by
  intro s a tag offset count final total check data i x f taking current span filling running inOrder v g u ends
  obtain ⟨broken, stored⟩ := State.blockData_current (s := v) (offset := offset) (count := count) (len := a.len)
    (final := final) (total := total) (check := check) (data := data) current span filling running
  have ended {w : State}
      (result : v.blockData a.len tag offset.toNat count.toNat final total.toNat check data = w) : ends w :=
    (exec_blockDataForPart taking).trans (settled_congr (congrArg State.drainEnd result))
  refine ⟨fun outside => ended (broken outside), fun inside last => ?_⟩
  have result : v.blockData a.len tag offset.toNat count.toNat final total.toNat check data
      = u.finalBlock i x g total.toNat check := (stored inside).trans (if_pos last)
  refine ⟨fun differs => ended (result.trans (State.finalBlock_miscounted differs)), fun counted =>
    ⟨fun differs mode => ?_, fun differs mode => ?_, fun same whole => ?_, fun same short opened => ?_,
      fun same short closed => ?_⟩⟩
  · exact ended (result.trans ((State.finalBlock_mismatched counted differs).1 mode))
  · intro n w marked
    have reported := (State.finalBlock_mismatched (s := u) (i := i) (x := x) counted differs).2 mode
    have noted : w.count (fun c => { c with mismatches := c.mismatches + 1 }) = marked := by
      unfold State.count
      rw [show w.fetch = u.fetch from State.fetch_putFetch ..]
    rw [show u.putFetch i { g with report := true } = w from rfl, noted] at reported
    exact ended (result.trans reported)
  all_goals
    have good := result.trans (State.finalBlock_matching counted same)
  · exact ended (good.trans (State.goodAttempt_whole whole))
  · exact ended ((good.trans (State.goodAttempt_short short)).trans (if_pos opened))
  · exact ended ((good.trans (State.goodAttempt_short short)).trans (if_neg closed))

end Sys2Proof.Machine
end

section
/-! PROOFS. DEFERS AND FETCH TIMERS: the records that a DF names, what becomes of each of them, and the not-before time
and issue hold that end at their time. -/

namespace Sys2Proof.Machine

open Sys2Proof

variable {s : State} {i delay : Nat} {x : Span} {f : Fetch}

/-! ## Several records at once (R119) -/

theorem State.deferRecords_eq_foldl (delay : Nat) (l : List Nat) :
    ∀ s : State, s.deferRecords delay l = l.foldl (fun q i => q.deferRecord delay i) s := by
  induction l with
  | nil => intro s; rfl
  | cons i t ih => intro s; exact ih (s.deferRecord delay i)

/-- The release of a record is counted nowhere. -/
theorem State.counts_release (s : State) (i : Nat) : (s.release i).fetch.counts = s.fetch.counts := by
  unfold State.release
  split
  · rfl
  · rename_i f _
    have same : (s.putFetch i f.released).fetch.counts = s.fetch.counts :=
      congrArg FetchScheduler.counts (s.fetch_putFetch i f.released)
    dsimp only
    split <;> exact same

theorem State.counts_releases (l : List Nat) :
    ∀ s : State, (l.foldl State.release s).fetch.counts = s.fetch.counts := by
  induction l with
  | nil => intro s; rfl
  | cons i t ih => intro s; exact (ih (s.release i)).trans (s.counts_release i)

/-- The state in which the records of several spans have given up their tags: TAGS has taken one sample, unless there
was none to free, and the defers are counted. -/
def State.tagsDeferred (s : State) (spans : List Nat) : State :=
  let w := spans.foldl State.release s
  { w with
    pressure := if spans = [] then s.pressure else { s.pressure with
      tags := s.pressure.tags.sample s.tables.active.shed.tags w.issuedCount }
    fetch := { w.fetch with counts := { s.fetch.counts with
      defers := s.fetch.counts.defers + BitVec.ofNat 32 spans.length } } }

/-- With no rule ARMED, a DF frees the tags, samples once, and then defers record by record. -/
theorem State.deferSpans_eq (unarmed : s.NoneArmed) (delay : Nat) (spans : List Nat) : s.deferSpans delay spans
    = spans.foldl (fun q i => q.deferRecord delay i) (s.tagsDeferred spans) := by
  have counts := State.counts_releases spans s
  have quiet : Quiet s (spans.foldl State.release s) := s.releaseAll_eq_foldl spans ▸ (Quiet.refl s).releaseAll spans
  have freed : (State.sampleAfter (spans.foldl State.release s) spans).count
      (fun c => { c with defers := c.defers + BitVec.ofNat 32 spans.length }) = s.tagsDeferred spans := by
    unfold State.sampleAfter State.tagsDeferred
    by_cases empty : spans = []
    · subst empty
      rfl
    · have still : (spans.foldl State.release s).NoneArmed := fun r => by
        unfold State.ruleState
        rw [quiet.rules]
        exact unarmed r
      rw [if_neg (mt List.isEmpty_iff.1 empty), State.sampleTags_of_noneArmed still]
      unfold State.count
      dsimp only
      rw [if_neg empty, quiet.pressure, quiet.tables, counts]
  unfold State.deferSpans
  dsimp only
  rw [State.releaseAll_eq_foldl, State.deferRecords_eq_foldl, freed]

/-- A DF that names no record changes nothing. -/
theorem State.deferSpans_nil (s : State) (delay : Nat) : s.deferSpans delay [] = s := by
  have zero : s.fetch.counts.defers + BitVec.ofNat 32 0 = s.fetch.counts.defers := BitVec.add_zero _
  change { s with fetch := { s.fetch with counts := { s.fetch.counts with
    defers := s.fetch.counts.defers + BitVec.ofNat 32 0 } } } = s
  rw [zero]

/-! ## One deferred record (R84, R112, R115) -/

/-- The record of a page that a DF makes the part read again from its first block. -/
def Fetch.rewound (f : Fetch) : Fetch := { f with base := 0, received := 0, report := false }

theorem Span.wanted_of_ne_nil (used : x.refs ≠ []) : x.wanted = true := by
  unfold Span.wanted
  rw [List.isEmpty_eq_false_iff.2 used]
  rfl

theorem State.deferRecord_delayed (span : s.buffer.span i = some x) (filling : x.state = .filling f)
    (used : x.refs ≠ []) (later : 0 < delay) : s.deferRecord delay i
      = s.putSpan i { x with state := .filling { f.rewound with
          state := .deferred, notBefore := some (s.now + delay) } } := by
  unfold State.deferRecord
  rw [span]
  dsimp only
  rw [if_pos (Span.wanted_of_ne_nil used), if_neg (Nat.ne_of_gt later), State.mapFetch_known span filling]
  rfl

theorem State.deferRecord_queued (span : s.buffer.span i = some x) (filling : x.state = .filling f)
    (used : x.refs ≠ []) : s.deferRecord 0 i
      = State.nextSequence (s.putSpan i { x with state := .filling { f.rewound with
          state := .queued, sequence := s.fetch.enqueue } }) := by
  unfold State.deferRecord
  rw [span]
  dsimp only
  rw [if_pos (Span.wanted_of_ne_nil used), if_pos rfl, State.mapFetch_known span filling]
  exact State.requeue_fresh (y := { x with state := .filling f.rewound }) used rfl

theorem State.deferRecord_unwanted (span : s.buffer.span i = some x) (unused : x.refs = []) (delay : Nat) :
    s.deferRecord delay i = s.freeSpan i := by
  unfold State.deferRecord Span.wanted
  rw [span]
  dsimp only
  rw [unused]
  rfl

/-- The record of an attempt that a DF holds until a later time. -/
def Fetch.heldUntil (f : Fetch) (time : Nat) : Fetch :=
  { f.released.rewound with state := .deferred, notBefore := some time }

/-- With no rule ARMED, a DF with a delay frees the tag of one record, counts, and holds its page. -/
theorem State.deferSpans_one {tag : TagIndex} (unarmed : s.NoneArmed) (span : s.buffer.span i = some x)
    (filling : x.state = .filling f) (held : f.tag = some tag) (used : x.refs ≠ []) (later : 0 < delay) :
    s.deferSpans delay [i]
      = ((s.tagFreed i tag).count fun c => { c with defers := c.defers + 1 }).putSpan i
          { x with state := .filling (f.heldUntil (s.now + delay)) } := by
  have freed : ((s.release i).sampleTags).count (fun c => { c with defers := c.defers + BitVec.ofNat 32 1 })
      = ((s.tagFreed i tag).count fun c => { c with defers := c.defers + 1 }).putSpan i (x.released f) := by
    rw [State.sampleTags_release unarmed span filling held]
    rfl
  change State.deferRecord (((s.release i).sampleTags).count
    (fun c => { c with defers := c.defers + BitVec.ofNat 32 1 })) delay i = _
  rw [freed, State.deferRecord_delayed (x := x.released f) (State.span_putSpan ..) rfl used later,
    State.putSpan_putSpan]
  rfl

/-! ## The records that a DF names (R115, R207) -/

section Named

variable {a : Arrival} {tag : Half} {length : Nat}

theorem exec_deferForPart {wait : Word} (taking : s.Taking .array a.src) : exec (.deferForPart a tag wait) s
    = .next ((s.stamp a.time).deferReply a.len tag wait.toNat).drainEnd.settle := by
  change execDeferForPart a tag wait s = _
  unfold execDeferForPart
  rw [State.arrive_taken taking]

theorem State.deferReply_refused (bad : length ≠ 8 ∨ 1000000 < delay) : s.deferReply length tag delay = s := by
  unfold State.deferReply
  refine if_neg fun ⟨whole, short⟩ => ?_
  obtain other | long := bad
  · exact other whole
  · exact Nat.not_lt.2 short long

theorem State.deferReply_accepted (whole : length = 8) (short : delay ≤ 1000000) :
    s.deferReply length tag delay = s.deferSpans delay (s.deferred tag) := by
  unfold State.deferReply
  exact if_pos ⟨whole, short⟩

theorem State.deferred_all : s.deferred 0xFFFF = s.buffer.issued := by
  unfold State.deferred
  exact if_pos rfl

/-- A tag that is not current, or whose record waits for its continuation, names no record. -/
theorem State.deferred_stale (single : tag ≠ 0xFFFF) (stale : s.currentTag tag.toNat = none ∨
      ∃ (i : Nat) (f : Fetch), s.currentTag tag.toNat = some i ∧ s.buffer.fetch i = some f ∧ f.waiting = true) :
    s.deferred tag = [] := by
  unfold State.deferred
  rw [if_neg single]
  obtain old | ⟨i, f, current, fetch, waiting⟩ := stale
  · rw [old]
  · rw [current]
    dsimp only
    rw [fetch]
    exact if_pos waiting

theorem State.deferred_current (single : tag ≠ 0xFFFF) (current : s.currentTag tag.toNat = some i)
    (fetch : s.buffer.fetch i = some f) (running : f.waiting = false) : s.deferred tag = [i] := by
  unfold State.deferred
  rw [if_neg single, current]
  dsimp only
  rw [fetch]
  exact if_neg (Bool.eq_false_iff.1 running)

end Named

/-- Settles O38: the records that the tag names, the release of all of them, and each of them by its delay and
referrers. -/
theorem defersHoldThePage : Obligations.DefersHoldThePage := by
  refine ⟨fun s a tag delay taking => ⟨fun bad => ?refused, fun whole short single stale => ?stale,
      fun whole short => ?all, s.buffer.mem_issued,
      fun i x f index whole short single current span filling running held => ?one⟩,
    fun s delay spans unarmed => State.deferSpans_eq unarmed delay spans, fun s i x f span filling => ?record⟩
  case refused => rw [exec_deferForPart taking, State.deferReply_refused bad]
  case stale =>
    rw [exec_deferForPart taking, State.deferReply_accepted whole short,
      State.deferred_stale (s := s.stamp a.time) single stale, State.deferSpans_nil]
  case all =>
    rw [exec_deferForPart taking, State.deferReply_accepted whole short, State.deferred_all]
    rfl
  case one =>
    intro u
    refine ⟨?_, fun unarmed used later => ?_⟩
    · rw [exec_deferForPart taking, State.deferReply_accepted whole short,
        State.deferred_current (s := s.stamp a.time) single current (SpanBuffer.fetch_of_filling span filling) running]
    · have deferred : u = _ := State.deferSpans_one (s := s.stamp a.time) unarmed span filling held used later
      intro g
      rw [deferred]
      exact ⟨State.span_putSpan .., rfl, rfl, rfl, rfl, rfl⟩
  case record =>
    refine ⟨fun index held => State.release_known span filling held, fun delay => ⟨?_, ?_, ?_⟩⟩
    · exact State.deferRecord_delayed span filling
    · rintro used rfl
      exact State.deferRecord_queued span filling used
    · exact fun unused => State.deferRecord_unwanted span unused delay

/-! ## Not-before times and the issue hold (R104, R121) -/

theorem exec_notBeforeTimeReached (s : State) (time i : Nat) :
    exec (.notBeforeTimeReached time i) s = .next ((s.stamp time).endDefer i).settle := rfl

theorem exec_issueHoldEnd (s : State) (time : Nat) :
    exec (.issueHoldEnd time) s = .next (s.stamp time).endHold.settle := rfl

/-- A span without a DEFERRED record, or with one whose time has not come, stays as it is. -/
theorem State.endDefer_early (early : ∀ (f : Fetch) (d : Nat), s.buffer.fetch i = some f → f.state = .deferred →
    f.notBefore = some d → s.now < d) : s.endDefer i = s := by
  unfold State.endDefer
  split
  · rfl
  · rename_i f fetch
    split
    · rename_i d deferred notBefore
      exact if_neg (Nat.not_le.2 (early f d fetch deferred notBefore))
    · rfl

theorem State.endDefer_reached {d : Nat} (span : s.buffer.span i = some x) (filling : x.state = .filling f)
    (deferred : f.state = .deferred) (notBefore : f.notBefore = some d) (reached : d ≤ s.now) : s.endDefer i
      = State.nextSequence (s.putSpan i { x with state := .filling { f with
          state := .queued, notBefore := none, sequence := s.fetch.enqueue } }) := by
  unfold State.endDefer
  rw [SpanBuffer.fetch_of_filling span filling]
  dsimp only
  rw [deferred, notBefore]
  dsimp only
  rw [if_pos reached]
  unfold State.putFetch
  rw [span]

theorem State.endHold_early (early : ∀ e : Nat, s.fetch.holdUntil = some e → s.now < e) : s.endHold = s := by
  unfold State.endHold State.reached
  cases hold : s.fetch.holdUntil with
  | none => rfl
  | some e => exact if_neg fun reached => Nat.not_le.2 (early e hold) (of_decide_eq_true reached)

theorem State.endHold_reached {e : Nat} (hold : s.fetch.holdUntil = some e) (reached : e ≤ s.now) :
    s.endHold = { s with fetch := { s.fetch with holdUntil := none } } := by
  unfold State.endHold State.reached
  rw [hold]
  exact if_pos (decide_eq_true reached)

/-- Settles O39: each timer by whether its time has been reached. -/
theorem fetchTimersActAtTheirTime : Obligations.FetchTimersActAtTheirTime := by
  intro s time now
  refine ⟨fun i => ⟨fun early => ?_, fun x f d span filling deferred notBefore reached => ?_⟩,
    fun e hold reached => ?_, fun early => ?_⟩
  · rw [exec_notBeforeTimeReached, State.endDefer_early (s := s.stamp time) early]
  · rw [exec_notBeforeTimeReached, State.endDefer_reached (s := s.stamp time) span filling deferred notBefore reached]
    rfl
  · rw [exec_issueHoldEnd, State.endHold_reached (s := s.stamp time) hold reached]
    rfl
  · rw [exec_issueHoldEnd, State.endHold_early (s := s.stamp time) early]

end Sys2Proof.Machine
end

section
/-! PROOFS. QUIESCE: the QR by the quiesce state, the return of the continuations that wait, and the grant with which
the drain ends. -/

namespace Sys2Proof.Machine

open Sys2Proof

variable {s : State}

/-! ## The array transmit queue (R123, R129) -/

/-- A port that takes a message has a place for a message of its own. -/
theorem State.control_lt_of_taking {src : Half} (taking : s.Taking .array src) : s.array.control.length < 16 := by
  obtain ⟨_, free, _⟩ := taking
  have unheld : s.arrayHolds = false := (Bool.or_eq_false_iff.1 free).1
  exact Nat.not_le.1 (of_decide_eq_false (Bool.or_eq_false_iff.1 unheld).2)

theorem State.placeGrant_room (room : s.array.control.length < 16) :
    s.placeGrant = s.pushArray (.qg (s.array.asker.getD 0)) := by
  unfold State.placeGrant
  exact if_pos (decide_eq_true room)

theorem State.placeGrant_full (full : 16 ≤ s.array.control.length) :
    s.placeGrant = { s with array := { s.array with grantWaiting := some (s.array.asker.getD 0) } } := by
  unfold State.placeGrant
  exact if_neg fun room => Nat.not_lt.2 full (of_decide_eq_true room)

/-! ## The drain (R118, R135, R164) -/

theorem exec_drainEnd (s : State) (time : Nat) : exec (.drainEnd time) s = .next (s.stamp time).drainEnd.settle := rfl

/-- The state in which the part's own reads have stopped, before the grant is placed. -/
def State.stopped (s : State) : State := { s with array := { s.array with quiesce := .quiesced } }

theorem State.drainEnd_running (running : ¬ (s.array.quiesce = .quiescing ∧ s.issuedCount = 0)) :
    s.drainEnd = s := by
  unfold State.drainEnd
  exact if_neg running

/-- The drain ends with the transition into QUIESCED, and then a grant. -/
theorem State.drainEnd_drained (quiescing : s.array.quiesce = .quiescing) (drained : s.issuedCount = 0) :
    s.drainEnd = (s.stopped.transition .quiesced).placeGrant := by
  unfold State.drainEnd
  rw [if_pos ⟨quiescing, drained⟩, State.setQuiesce_of_changed]
  · rfl
  · rw [quiescing]
    simp

theorem State.drainEnd_unarmed (quiescing : s.array.quiesce = .quiescing) (drained : s.issuedCount = 0)
    (unarmed : s.NoneArmed) : s.drainEnd = s.stopped.placeGrant := by
  rw [State.drainEnd_drained quiescing drained, State.transition_of_noneArmed (s := s.stopped) unarmed]

/-- Settles O42: the drain by the issued count, and its grant by the places left. -/
theorem theDrainEndsWithAGrant : Obligations.TheDrainEndsWithAGrant := by
  intro s time
  have drain := exec_drainEnd s time
  refine ⟨fun running => ?running, fun quiescing drained unarmed => ?unarmed, fun quiescing drained => ?general⟩
  case running => rw [drain, State.drainEnd_running (s := s.stamp time) running]
  case unarmed =>
    rw [drain, State.drainEnd_unarmed (s := s.stamp time) quiescing drained unarmed]
    exact ⟨fun room => settled_congr (State.placeGrant_room (s := (s.stamp time).stopped) room),
      fun full => settled_congr (State.placeGrant_full (s := (s.stamp time).stopped) full)⟩
  case general =>
    intro u dst
    have array : u.array = { s.array with quiesce := .quiesced } :=
      ((Keeps.refl (s.stamp time).stopped).transition .quiesced).array
    have control : u.array.control = s.array.control := by rw [array]
    have asker : u.array.asker.getD 0 = dst := by rw [array]
    rw [drain, State.drainEnd_drained (s := s.stamp time) quiescing drained]
    refine ⟨array, fun room => settled_congr ?_, fun full => settled_congr ?_⟩
    · have placed := State.placeGrant_room (s := u) (control ▸ room)
      rw [asker] at placed
      rw [← control]
      exact placed
    · have placed := State.placeGrant_full (s := u) (control ▸ full)
      rw [asker] at placed
      exact placed

/-! ## Continuations that wait (R106, R118) -/

theorem State.leaveOpen_none (idle : s.fetch.continuations = []) : s.leaveOpen = s := by
  unfold State.leaveOpen
  rw [idle]
  rfl

theorem State.leaveOpen_some (waiting : s.fetch.continuations ≠ []) : s.leaveOpen
    = s.fetch.continuations.foldl (fun q i => q.requeue false i)
      (s.fetch.continuations.foldl State.release s).sampleTags := by
  unfold State.leaveOpen State.sampleAfter
  dsimp only
  rw [if_neg fun empty => waiting (List.isEmpty_iff.1 empty), State.releaseAll_eq_foldl, State.requeueAll_eq_foldl]

/-! ## The QR (R134) -/

/-- The state in which a QR has asked the part to stop its own reads. -/
def State.asked (s : State) (src : Half) : State :=
  { s with array := { s.array with asker := some src, quiesce := .quiescing } }

theorem exec_quiesceRequest {a : Arrival} (taking : s.Taking .array a.src) : exec (.quiesceRequest a) s
    = .next (State.settle (if a.len = 0 then (s.stamp a.time).takeQuiesceRequest a.src else s.stamp a.time)) := by
  change execQuiesceRequest a s = _
  unfold execQuiesceRequest
  rw [State.arrive_taken taking]

theorem State.takeQuiesceRequest_opened (opened : s.array.quiesce = .opened) (src : Half) :
    s.takeQuiesceRequest src = (s.asked src).leaveOpen.drainEnd := by
  unfold State.takeQuiesceRequest
  rw [opened]
  dsimp only
  rw [State.setQuiesce_of_same]
  · rfl
  · rw [opened]
    simp

theorem State.takeQuiesceRequest_quiescing (quiescing : s.array.quiesce = .quiescing) (src : Half) :
    s.takeQuiesceRequest src = s := by
  unfold State.takeQuiesceRequest
  rw [quiescing]

theorem State.takeQuiesceRequest_quiesced (quiesced : s.array.quiesce = .quiesced) (src : Half) :
    s.takeQuiesceRequest src = if s.grantPlaced = true then s
      else State.placeGrant { s with array := { s.array with asker := some src } } := by
  unfold State.takeQuiesceRequest
  rw [quiesced]

/-- Settles O40: the QR by its length and the quiesce state, the drain by the issued count, and the continuations that
return one by one. -/
theorem quiesceRequestsStopTheReads : Obligations.QuiesceRequestsStopTheReads := by
  refine ⟨fun s a taking => ?request, fun s => ⟨State.leaveOpen_none, State.leaveOpen_some⟩,
    fun s i x f span filling => ⟨fun tag held => State.release_known span filling held,
      State.requeue_wanted span filling, fun unused => State.requeue_unwanted span unused false⟩⟩
  have request := exec_quiesceRequest taking
  have room := State.control_lt_of_taking taking
  have taken (empty : a.len = 0) {v : State} (result : (s.stamp a.time).takeQuiesceRequest a.src = v) :
      exec (.quiesceRequest a) s = .next v.settle := request.trans (settled_congr ((if_pos empty).trans result))
  have opens (opened : s.array.quiesce = .opened) : (s.stamp a.time).takeQuiesceRequest a.src
      = ((s.stamp a.time).asked a.src).leaveOpen.drainEnd :=
    State.takeQuiesceRequest_opened (s := s.stamp a.time) opened a.src
  refine ⟨fun long => request.trans (settled_congr (if_neg long)),
    fun empty quiescing => taken empty (State.takeQuiesceRequest_quiescing (s := s.stamp a.time) quiescing a.src),
    fun empty quiesced => ?quiesced, fun empty opened => taken empty (opens opened),
    fun empty opened unarmed idle => ?opened⟩
  case quiesced =>
    have repeats := State.takeQuiesceRequest_quiesced (s := s.stamp a.time) quiesced a.src
    refine ⟨fun placed => taken empty (repeats.trans (if_pos placed)), fun unplaced => taken empty ?_⟩
    rw [repeats, if_neg (Bool.eq_false_iff.1 (show (s.stamp a.time).grantPlaced = false from unplaced))]
    exact State.placeGrant_room (s := { s.stamp a.time with array := { s.array with asker := some a.src } }) room
  case opened =>
    have stays : (s.stamp a.time).takeQuiesceRequest a.src = ((s.stamp a.time).asked a.src).drainEnd := by
      rw [opens opened, State.leaveOpen_none (s := (s.stamp a.time).asked a.src) idle]
    refine ⟨fun busy => taken empty ?_, fun drained => taken empty ?_⟩
    · exact stays.trans (State.drainEnd_running fun ends => busy ends.2)
    · rw [stays, State.drainEnd_unarmed (s := (s.stamp a.time).asked a.src) rfl drained unarmed]
      exact State.placeGrant_room (s := ((s.stamp a.time).asked a.src).stopped) room

end Sys2Proof.Machine
end

section
/-! PROOFS. QUEUE BOUNDS: a port that takes a message has a place in each of its queues, the effect of a message places
one at most, and everything else takes messages out or places them under a check of the room, so that each step keeps
every queue within its bound. -/

namespace Sys2Proof.Machine

open Sys2Proof

variable {s t : State}

/-! ## Queues within their bounds (R123, R124, R152, R199) -/

/-- Every queue of messages is within its bound, and at most one MN stands in the array transmit queue. -/
def State.Queued (s : State) : Prop := s.Bounded ∧ s.OneNotice

namespace State.Queued

theorem steady (q : s.Queued) (k : Steady s t) : t.Queued := by
  obtain ⟨bounded, one⟩ := q
  exact ⟨⟨k.control bounded.control, k.notices bounded.notices, k.transmit bounded.transmit, k.toFloor bounded.toFloor,
    k.toArray bounded.toArray⟩, k.oneMn one⟩

theorem keeps (q : s.Queued) (k : Keeps s t) : t.Queued := q.steady k.steady

/-- Taking messages out of the queues keeps their bounds; a queue not mentioned stays. -/
theorem shrink (q : s.Queued) (control : t.tx.control.Sublist s.tx.control := by exact .refl _)
    (notices : t.responder.notices.Sublist s.responder.notices := by exact .refl _)
    (transmit : t.array.control.Sublist s.array.control := by exact .refl _)
    (toFloor : t.array.toFloor.Sublist s.array.toFloor := by exact .refl _)
    (toArray : t.floor.toArray.Sublist s.floor.toArray := by exact .refl _) : t.Queued := by
  obtain ⟨bounded, one⟩ := q
  exact ⟨⟨control.length_le.trans bounded.control, notices.length_le.trans bounded.notices,
    transmit.length_le.trans bounded.transmit, toFloor.length_le.trans bounded.toFloor,
    toArray.length_le.trans bounded.toArray⟩, (transmit.filter _).length_le.trans one⟩

/-- A full reset leaves one notice, READY, and every other queue empty. -/
theorem fullReset (s : State) (pins : Straps) : (s.fullReset pins).Queued :=
  ⟨⟨Nat.zero_le _, Nat.le_of_ble_eq_true rfl, Nat.zero_le _, Nat.zero_le _, Nat.zero_le _⟩, Nat.zero_le _⟩

end State.Queued

/-! ## Messages that are placed -/

/-- A message joins the forwarding queue toward the floor of a port that does not hold its link. -/
theorem Steady.forwardToFloor (free : s.arrayHolds = false) (f : Frame) : Steady s (s.forwardToFloor f) := by
  have room : s.array.toFloor.length < Config.forwardQueue :=
    Nat.not_le.1 (of_decide_eq_false (Bool.or_eq_false_iff.1 free).1)
  have placed : Steady s { s with array := { s.array with toFloor := s.array.toFloor ++ [f] } } :=
    { Steady.refl s with toFloor := fun _ => by simp; omega }
  unfold State.forwardToFloor
  split
  · exact placed.trans ((Keeps.refl _).joinTurns _).steady
  · exact Steady.refl s

/-- A message joins the forwarding queue toward the array of a port that does not hold its link. -/
theorem Steady.forwardToArray (free : s.floorHolds = false) (f : Frame) : Steady s (s.forwardToArray f) := by
  have room : s.floor.toArray.length < Config.forwardQueue := Nat.not_le.1 (of_decide_eq_false free)
  unfold State.forwardToArray
  split
  · exact { Steady.refl s with toArray := fun _ => by simp; omega }
  · exact Steady.refl s

theorem State.arrayRoom_of_free (free : s.arrayHolds = false) : s.arrayRoom = true :=
  decide_eq_true (Nat.not_le.1 (of_decide_eq_false (Bool.or_eq_false_iff.1 free).2))

/-- An MA joins the transmit queue of a port that does not hold its link. -/
theorem Steady.answerManage (free : s.arrayHolds = false) (dst : Half) (req : Word) (verb : Byte)
    (result : ManageResult) (body : AnswerBody) : Steady s (s.answerManage dst req verb result body) := by
  unfold State.answerManage
  split
  · exact (Steady.refl s).pushArray _ rfl (State.arrayRoom_of_free free)
  · exact Steady.refl s

theorem Steady.reply (free : s.arrayHolds = false) (a : Arrival) (req : Word) (v : ManageVerb) (result : ManageResult) :
    Steady s (s.reply a req v result) := Steady.answerManage free ..

theorem Steady.placeGrant (s : State) : Steady s s.placeGrant := by
  unfold State.placeGrant
  dsimp only
  split
  · rename_i room
    exact (Steady.refl s).pushArray _ rfl room
  · exact { Steady.refl s with }

theorem Steady.answerCommit (s : State) (m : ManageAnswer) : Steady s (s.answerCommit m) := by
  unfold State.answerCommit
  split
  · exact Steady.refl s
  · split
    · rename_i room
      exact (Steady.refl s).pushArray _ rfl room
    · exact { Steady.refl s with }

/-- An operation below the ports leaves the array port's hold. -/
theorem Keeps.arrayHolds (k : Keeps s t) : t.arrayHolds = s.arrayHolds := by
  unfold State.arrayHolds
  rw [k.array]

/-! ## The effects of messages and events above the ports -/

namespace State.Queued

/-! Messages that cross the part, local answers and rewrite notices. -/

theorem offerRead (q : s.Queued) (free : s.floorHolds = false) (f : Frame) : (s.offerRead f).Queued := by
  unfold State.offerRead
  split
  · exact q.steady (Steady.forwardToArray free f)
  · split
    · exact q.steady (Steady.forwardToArray free f)
    · exact q.keeps ((Keeps.refl s).startAnswer ..)

theorem takeRewrite (q : s.Queued) (free : s.arrayHolds = false) (f : Frame) : (s.takeRewrite f).Queued := by
  have rewritten (w : Rewrite) : Keeps s (s.rewrite w) := (Keeps.refl s).rewrite w
  unfold State.takeRewrite
  split
  · exact q
  · split
    · exact q.keeps (rewritten _)
    · exact (q.keeps (rewritten _)).steady (Steady.forwardToFloor ((rewritten _).arrayHolds.trans free) f)

/-! Block data and quiesce. -/

theorem blockData (q : s.Queued) (len : Nat) (tag : Half) (offset count : Nat) (final : Bool) (total : Nat)
    (check : Word) (data : List Byte) : (s.blockData len tag offset count final total check data).Queued := by
  have stale : s.staleReply.Queued := q.keeps (Keeps.refl s).staleReply
  have stored (a : Nat) (bs : List Byte) : (s.store a bs).Queued := q.shrink
  unfold State.blockData
  dsimp only
  split
  · exact stale
  · split
    · exact stale
    · split
      · exact stale
      · split
        · exact stale
        · split
          · split
            · exact (stored _ _).keeps (((Keeps.refl _).putSpan _ _).finalBlock ..)
            · exact (stored _ _).keeps ((Keeps.refl _).putSpan _ _)
          · exact q.keeps ((Keeps.refl s).failedAttempt ..)

theorem setQuiesce (q : s.Queued) (z : Quiesce) : (s.setQuiesce z).Queued := by
  have moved : State.Queued { s with array := { s.array with quiesce := z } } := q.shrink
  unfold State.setQuiesce
  dsimp only
  split
  · exact moved
  · exact moved.keeps ((Keeps.refl _).transition _)

theorem drainEnd (q : s.Queued) : s.drainEnd.Queued := by
  unfold State.drainEnd
  split
  · exact (q.setQuiesce _).steady (Steady.placeGrant _)
  · exact q

theorem takeQuiesceRequest (q : s.Queued) (src : Half) : (s.takeQuiesceRequest src).Queued := by
  have asked : State.Queued { s with array := { s.array with asker := some src } } := q.shrink
  unfold State.takeQuiesceRequest
  split
  · exact ((asked.setQuiesce _).keeps (Keeps.refl _).leaveOpen).drainEnd
  · exact q
  · split
    · exact q
    · exact asked.steady (Steady.placeGrant _)

theorem takeQuiesceEnd (q : s.Queued) : s.takeQuiesceEnd.Queued := by
  have dropped : s.dropGrants.Queued := q.shrink (transmit := List.filter_sublist)
  unfold State.takeQuiesceEnd
  split
  · exact q
  · exact dropped.setQuiesce _
  · exact dropped.setQuiesce _

/-! Management. -/

theorem stage (q : s.Queued) (free : s.arrayHolds = false) (a : Arrival) (req : Word) (v : ManageVerb)
    (edit : Except ManageResult Bank) : (s.stage a req v edit).Queued := by
  have replied (e : ManageResult) : (s.reply a req v e).Queued := q.steady (Steady.reply free ..)
  unfold State.stage
  split
  · exact replied _
  · split
    · exact replied _
    · have edited (b : Bank) : State.Queued { s with tables := { s.tables with staged := b } } := q.shrink
      exact (edited _).steady (Steady.reply (by exact free) ..)

theorem bare (q : s.Queued) (free : s.arrayHolds = false) (a : Arrival) (req : Word) (v : ManageVerb)
    {effect : State → State} (e : (effect s).Queued) : (s.bare a req v effect).Queued := by
  unfold State.bare
  split
  · exact e
  · exact q.steady (Steady.reply free ..)

theorem takeCommit (q : s.Queued) (free : s.arrayHolds = false) (a : Arrival) (req : Word) :
    (s.takeCommit a req).Queued := by
  have replied (e : ManageResult) : (s.reply a req .commit e).Queued := q.steady (Steady.reply free ..)
  have swapped : State.Queued { s with tables := s.tables.swap a.src req } := q.shrink
  unfold State.takeCommit
  split
  · exact replied _
  · split
    · exact replied _
    · split
      · exact replied _
      · split
        · exact replied _
        · exact swapped.keeps ((Keeps.refl _).rearm _)

theorem takeClear (q : s.Queued) (free : s.arrayHolds = false) (a : Arrival) (req : Word) (rule : Byte) :
    (s.takeClear a req rule).Queued := by
  have cleared (r : RuleNumber) : Keeps s (s.clearRule r) := (Keeps.refl s).clearRule r
  unfold State.takeClear
  split
  · exact q.steady (Steady.reply free ..)
  · exact (q.keeps (cleared _)).steady (Steady.reply ((cleared _).arrayHolds.trans free) ..)

theorem takeReadClip (q : s.Queued) (free : s.arrayHolds = false) (a : Arrival) (req clip : Word) (bank given : Byte)
    (edition : Word) : (s.takeReadClip a req clip bank given edition).Queued := by
  unfold State.takeReadClip
  split
  · exact q.steady (Steady.reply free ..)
  · split
    · exact q.steady (Steady.reply free ..)
    · exact q.steady (Steady.answerManage free ..)

theorem takeReadStream (q : s.Queued) (free : s.arrayHolds = false) (a : Arrival) (req : Word) (b : Byte) :
    (s.takeReadStream a req b).Queued := by
  unfold State.takeReadStream
  split
  · exact q.steady (Steady.reply free ..)
  · split
    · exact q.steady (Steady.answerManage free ..)
    · exact q.steady (Steady.reply free ..)

theorem resetStreams (q : s.Queued) (free : s.arrayHolds = false) (a : Arrival) (req : Word) :
    ((s.closeAll handles).reply a req .resetStreams .ok).Queued := by
  have closed : Keeps s (s.closeAll handles) := (Keeps.refl s).closeAll handles
  exact (q.keeps closed).steady (Steady.reply (closed.arrayHolds.trans free) ..)

theorem walkVisit (q : s.Queued) : s.walkVisit.Queued := by
  unfold State.walkVisit
  split
  · exact q
  · split
    · exact (q.keeps ((Keeps.refl s).visit _)).shrink
    · exact q

theorem walkEnd (q : s.Queued) : s.walkEnd.Queued := by
  have ended : State.Queued { s with tables := s.tables.endWalk } := q.shrink
  unfold State.walkEnd
  split
  · exact q
  · split
    · exact q
    · exact ended.steady (Steady.answerCommit ..)

/-! Transmissions and links. -/

theorem endAnswerBlock (q : s.Queued) (serial : Nat) (bd : AnswerData) : (s.endAnswerBlock serial bd).Queued := by
  have free : s.freeFloor.Queued := q.shrink
  unfold State.endAnswerBlock
  dsimp only
  split
  · exact free
  · split
    · exact free.keeps ((Keeps.refl _).endAnswer _)
    · exact free.keeps ((Keeps.refl _).handBlock _)

theorem endFrame (q : s.Queued) (d : Delivery) : (s.endFrame d).Queued := by
  have free : State.Queued { s with tx := { s.tx with sending := none, current := none } } := q.shrink
  exact free.keeps ((Keeps.refl _).transmissionEnded ..)

theorem endFloorMessage (q : s.Queued) : s.endFloorMessage.Queued := by
  have free : s.freeFloor.Queued := q.shrink
  unfold State.endFloorMessage
  split
  · exact q
  · exact free
  · exact free
  · exact q.endAnswerBlock ..
  · split
    · exact q.endFrame _
    · exact free

theorem endLastSegment (q : s.Queued) : s.endLastSegment.Queued := by
  unfold State.endLastSegment
  split
  · split
    · exact q.endFrame _
    · exact q
  · exact q

theorem endSentBlock (q : s.Queued) : s.endSentBlock.Queued := by
  unfold State.endSentBlock
  split
  · exact q.endAnswerBlock ..
  · exact q

theorem loseArray (q : s.Queued) : s.loseArray.Queued := by
  have emptied : (State.emptyArray { s with array := { s.array with linkUp := false } }).Queued :=
    q.shrink (transmit := List.nil_sublist _) (toArray := List.nil_sublist _)
  exact (emptied.setQuiesce _).keeps (Keeps.refl _).returnIssued

theorem loseFloor (q : s.Queued) : s.loseFloor.Queued := by
  have emptied : (State.emptyFloor { s with floor := { s.floor with linkUp := false } }).Queued :=
    q.shrink (control := List.nil_sublist _) (toFloor := List.nil_sublist _)
  exact emptied.keeps (((Keeps.refl _).abandonAnswers _).closeAll _)

end State.Queued

/-! ## Commands by the way they reach the part -/

theorem portsKeep_queued : PortsKeep State.Queued where
  stamp _ _ q := q.shrink
  waits _ port _ q := by cases port <;> exact q.shrink
  settle s q := q.steady (Steady.settle s)

section Commands

variable {p : State → Prop} {c : Instr} {port : Port} {time : Nat} {effect : State → State}

/-- The effect of a message begins in a state in which its port does not hold the link. -/
theorem PortsKeep.arriveFree {src : Half} (keep : PortsKeep p)
    (run : ∀ s, exec c s = .next (s.arrive port c time src effect))
    (e : ∀ s, p s → s.waits port = false → p (effect s)) : ExecKeeps c p := by
  intro s t holds answers
  obtain rfl := Host.Outcome.next.inj ((run s).symm.trans answers)
  have stamped := keep.stamp s time holds
  obtain only | held | ⟨⟨-, free, -⟩, taken⟩ := s.arrive_cases port c time src effect
  · rwa [only]
  · rw [held]
    exact keep.waits _ _ _ stamped
  · rw [taken]
    exact keep.settle _ (e _ stamped ((s.waits_stamp ..).trans free))

theorem PortsKeep.arriveFrameFree {f : Frame} (keep : PortsKeep p)
    (run : ∀ s, exec c s = .next (s.arriveFrame port c time f effect))
    (e : ∀ s, p s → s.waits port = false → p (effect s)) : ExecKeeps c p := by
  intro s t holds answers
  obtain rfl := Host.Outcome.next.inj ((run s).symm.trans answers)
  have stamped := keep.stamp s time holds
  obtain only | held | ⟨⟨-, free, -⟩, taken⟩ := s.arriveFrame_cases port c time f effect
  · rwa [only]
  · rw [held]
    exact keep.waits _ _ _ stamped
  · rw [taken]
    exact keep.settle _ (e _ stamped ((s.waits_stamp ..).trans free))

theorem State.arrayHolds_of_free (free : s.waits .array = false) : s.arrayHolds = false :=
  (Bool.or_eq_false_iff.1 free).1

theorem State.floorHolds_of_free (free : s.waits .floor = false) : s.floorHolds = false :=
  (Bool.or_eq_false_iff.1 free).1

/-- An SQ has its effect below the ports. -/
theorem queued_of_station {a : Arrival}
    (run : ∀ s, exec c s = .next (s.arrive .floor c a.time a.src (fun s => s.readable a effect)))
    (k : ∀ s, Keeps s (effect s)) : ExecKeeps c State.Queued :=
  portsKeep_queued.arrive run fun s q => by
    unfold State.readable
    split
    · exact q
    · exact q.keeps (k s)

/-- An MQ is taken by an array port with a place for its MA. -/
theorem queued_of_manage {a : Arrival}
    (run : ∀ s, exec c s = .next (s.arrive .array c a.time a.src (fun s => s.readableManage a effect)))
    (e : ∀ s, s.Queued → s.arrayHolds = false → (effect s).Queued) : ExecKeeps c State.Queued :=
  portsKeep_queued.arriveFree run fun s q free => by
    unfold State.readableManage
    split
    · exact q
    · exact e s q (State.arrayHolds_of_free free)

/-- An effect that a condition may hold back. -/
theorem State.Queued.ite {b : Prop} [Decidable b] (q : s.Queued) (e : t.Queued) : (if b then t else s).Queued := by
  split
  · exact e
  · exact q

theorem queued_of_reset {pins : Straps} (run : ∀ s, exec c s = .next (s.fullReset pins)) : ExecKeeps c State.Queued :=
  fun s t _ answers => by
    obtain rfl := Host.Outcome.next.inj ((run s).symm.trans answers)
    exact State.Queued.fullReset s pins

end Commands

/-! ## Every command, and every step -/

theorem exec_keeps_queued (c : Instr) : ExecKeeps c State.Queued := by
  have keep := portsKeep_queued
  cases c with
  | openStream a req clip choice depth late =>
    exact queued_of_station (fun _ => rfl) fun s => (Keeps.refl s).openVerb ..
  | prime a req b frame stride | start a req b frame stride | seek a req b frame stride =>
    exact queued_of_station (fun _ => rfl) fun s => (Keeps.refl s).judge a req b _ fun h =>
      (Keeps.refl s).moveStream ..
  | play a req b =>
    exact queued_of_station (fun _ => rfl) fun s => (Keeps.refl s).judge a req b _ fun h =>
      (Keeps.refl s).playStream ..
  | pause a req b =>
    exact queued_of_station (fun _ => rfl) fun s => (Keeps.refl s).judge a req b _ fun h =>
      (Keeps.refl s).pauseStream ..
  | close a req b =>
    exact queued_of_station (fun _ => rfl) fun s => (Keeps.refl s).judge a req b _ fun h =>
      (Keeps.refl s).closeStream ..
  | unknownStationVerb a req verb b => exact queued_of_station (fun _ => rfl) fun s => (Keeps.refl s).answer ..
  | probeReply a b verdict number =>
    exact keep.arrive (fun _ => rfl) fun s q => q.keeps ((Keeps.refl s).takeProbeReply ..)
  | creditGrant a b n => exact keep.arrive (fun _ => rfl) fun s q => q.keeps ((Keeps.refl s).takeCredit ..)
  | stationBlockRead t f =>
    exact keep.arriveFrameFree (fun _ => rfl) fun s q free => q.ite (q.offerRead (State.floorHolds_of_free free) f)
  | malformedFrame t port f =>
    intro s u q answers
    obtain rfl := Host.Outcome.next.inj answers
    split
    · exact keep.waits _ _ _ (keep.stamp s t q)
    · exact keep.stamp s t q
  | blockDataForPart a tag offset count final total check data =>
    exact keep.arrive (fun _ => rfl) fun s q => (q.blockData ..).drainEnd
  | deferForPart a tag delay =>
    exact keep.arrive (fun _ => rfl) fun s q => (q.keeps ((Keeps.refl s).deferReply ..)).drainEnd
  | forwardedArrayMessage t f =>
    exact keep.arriveFrameFree (fun _ => rfl) fun s q free =>
      q.ite (q.steady (Steady.forwardToFloor (State.arrayHolds_of_free free) f))
  | rewriteNotice t f =>
    exact keep.arriveFrameFree (fun _ => rfl) fun s q free => q.ite (q.takeRewrite (State.arrayHolds_of_free free) f)
  | quiesceRequest a => exact keep.arrive (fun _ => rfl) fun s q => q.ite (q.takeQuiesceRequest a.src)
  | quiesceEnd a => exact keep.arrive (fun _ => rfl) fun s q => q.ite q.takeQuiesceEnd
  | stageClip a req | unstageClip a req | stageStation a req | unstageStation a req | stagePolicy a req
  | stageRule a req | discardStage a req => exact queued_of_manage (fun _ => rfl) fun s q free => q.stage free ..
  | commit a req => exact queued_of_manage (fun _ => rfl) fun s q free => q.takeCommit free a req
  | clearShed a req rule => exact queued_of_manage (fun _ => rfl) fun s q free => q.takeClear free a req rule
  | readClip a req clip bank given edition =>
    exact queued_of_manage (fun _ => rfl) fun s q free => q.takeReadClip free ..
  | readStream a req b => exact queued_of_manage (fun _ => rfl) fun s q free => q.takeReadStream free ..
  | readSpanCounts a req | readFetchCounts a req =>
    exact queued_of_manage (fun _ => rfl) fun s q free => q.bare free a req _ (q.steady (Steady.answerManage free ..))
  | resetStreams a req =>
    exact queued_of_manage (fun _ => rfl) fun s q free => q.bare free a req _ (q.resetStreams free a req)
  | resetPart a req =>
    exact queued_of_manage (fun _ => rfl) fun s q free => q.bare free a req _ (State.Queued.fullReset s s.pins)
  | unknownManageVerb a req verb =>
    exact queued_of_manage (fun _ => rfl) fun s q free => q.steady (Steady.answerManage free ..)
  | powerOn t pins | resetPin t pins => exact queued_of_reset fun _ => rfl
  | probeWindowExpiry t h => exact keep.event (fun _ => rfl) fun s q => q.keeps ((Keeps.refl s).endProbe h)
  | dueTime t h => exact keep.event (fun _ => rfl) fun s q => q.keeps ((Keeps.refl s).takeDue h)
  | readTimeout t tag => exact keep.event (fun _ => rfl) fun s q => (q.keeps ((Keeps.refl s).timeOut tag)).drainEnd
  | notBeforeTimeReached t i => exact keep.event (fun _ => rfl) fun s q => q.keeps ((Keeps.refl s).endDefer i)
  | issueHoldEnd t => exact keep.event (fun _ => rfl) fun s q => q.ite q.shrink
  | commitWalkVisit t => exact keep.event (fun _ => rfl) fun s q => q.walkVisit
  | commitWalkEnd t => exact keep.event (fun _ => rfl) fun s q => q.walkEnd
  | arrayTransmissionEnd t => exact keep.event (fun _ => rfl) fun s q => q.shrink
  | floorTransmissionEnd t => exact keep.event (fun _ => rfl) fun s q => q.endFloorMessage
  | frameTransmissionEnd t => exact keep.event (fun _ => rfl) fun s q => q.endLastSegment
  | localAnswerBdSent t => exact keep.event (fun _ => rfl) fun s q => q.endSentBlock
  | linkPartnerFlowControl t port holding =>
    exact keep.event (fun _ => rfl) fun s q => q.ite (by cases port <;> exact q.shrink)
  | arrayLinkDown t => exact keep.event (fun _ => rfl) fun s q => q.ite q.loseArray
  | floorLinkDown t => exact keep.event (fun _ => rfl) fun s q => q.ite q.loseFloor
  | arrayLinkUp t | floorLinkUp t => exact keep.event (fun _ => rfl) fun s q => q.ite q.shrink
  | drainEnd t => exact keep.event (fun _ => rfl) fun s q => q.drainEnd
  | waitingQgJoins t => exact keep.event (fun _ => rfl) fun s q => q.steady (Steady.joinGrant s)
  | waitingCommitAnswerJoins t =>
    exact keep.event (fun _ => rfl) fun s q => q.steady ((Steady.joinGrant s).trans (Steady.joinAnswer _))
  | mnHandover t => exact keep.event (fun _ => rfl) fun s q => q.steady (Steady.joins s)
  | allocationQueueServing t => exact keep.event (fun _ => rfl) fun s q => q.keeps (Keeps.refl s).serve

/-- Settles O6: every command keeps the bounds, and the idle step moves no message of these queues. -/
theorem stepKeepsQueueBounds : Obligations.StepKeepsQueueBounds := by
  intro s t q answers
  unfold step at answers
  split at answers
  · obtain rfl := Host.Outcome.next.inj answers
    exact State.Queued.shrink q
  · exact exec_keeps_queued _ _ t (State.Queued.shrink q) answers

end Sys2Proof.Machine
end

section
/-! PROOFS. PORTS AND PASS-THROUGH: the idle step, the full resets, what a port takes from its link and passes on, and
the end of a quiesce. -/

namespace Sys2Proof.Machine

open Sys2Proof

variable {s : State}

/-! ## The idle step -/

theorem step_of_empty (empty : s.pending = []) : step s = .next s.idle := by
  unfold step
  rw [empty]

/-- Settles O2: the time moves the part's own events, and no hold of a link. -/
theorem stepIdlesOnAnEmptyQueue : Obligations.StepIdlesOnAnEmptyQueue := by
  intro s empty u
  rw [step_of_empty empty]
  rfl

/-! ## Full resets (R140, R201) -/

/-! A transmitter that is not free starts nothing (R131, R156). -/

theorem State.arrayChoose_of_busy (busy : s.arrayFree = false) : s.arrayChoose = s := by
  unfold State.arrayChoose
  rw [busy]
  rfl

theorem State.floorChoose_of_busy (busy : s.floorFree = false) : s.floorChoose = s := by
  unfold State.floorChoose
  rw [busy]
  rfl

/-- After a full reset both links are DOWN: READY stays with the responder, and no transmitter is free. -/
theorem State.settle_fullReset (s : State) (pins : Straps) : (s.fullReset pins).settle = s.fullReset pins := by
  have still : (s.fullReset pins).joins = s.fullReset pins := by
    unfold State.joins
    rw [State.joinGrant_stays (.inl rfl), State.joinAnswer_stays (.inl rfl),
      State.handOver_stays (.inr fun due => Bool.noConfusion due.1.1)]
  unfold State.settle
  rw [still, State.arrayChoose_of_busy rfl, still, State.floorChoose_of_busy rfl]

theorem exec_resetPart {a : Arrival} (taking : s.Taking .array a.src) (readable : 8 ≤ a.len) (req : Word) :
    exec (.resetPart a req) s = .next (State.settle ((s.stamp a.time).bare a req .resetPart
      (fun s => s.fullReset s.pins))) := by
  change execResetPart a req s = _
  unfold execResetPart
  rw [State.arrive_taken taking, State.readableManage_of_le readable]

/-- Settles O11: a full reset leaves nothing to settle, and a RESET PART of 8 bytes is one. -/
theorem fullResetCommands : Obligations.FullResetCommands := by
  refine ⟨fun t pins s => ⟨rfl, rfl⟩, fun a req s taking => ⟨fun exact8 => ?_, fun long => ?_⟩⟩
  · rw [exec_resetPart taking (Nat.le_of_eq exact8.symm)]
    unfold State.bare
    rw [if_pos exact8, State.settle_fullReset]
    rfl
  · rw [exec_resetPart taking (Nat.le_of_lt long)]
    unfold State.bare
    rw [if_neg (Nat.ne_of_gt long)]
    rfl

/-! ## What a port takes from its link (R125, R129, R203) -/

/-- Every message given by its fields arrives on its port with some effect. -/
theorem exec_of_arrivalAt {c : Instr} {p : Port} {a : Arrival} (message : arrivalAt c = some (p, a)) :
    ∃ effect : State → State, ∀ s, exec c s = .next (s.arrive p c a.time a.src effect) := by
  cases c <;> cases message <;> exact ⟨_, fun _ => rfl⟩

/-- Every message given as its whole frame arrives on its port with some effect. -/
theorem exec_of_frameAt {c : Instr} {p : Port} {t : Nat} {f : Frame} (message : frameAt c = some (p, t, f)) :
    ∃ effect : State → State, ∀ s, exec c s = .next (s.arriveFrame p c t f effect) := by
  cases c <;> cases message <;> exact ⟨_, fun _ => rfl⟩

theorem State.waits_array_iff (s : State) : s.waits .array = true
    ↔ 256 ≤ s.array.toFloor.length ∨ 16 ≤ s.array.control.length ∨ s.array.onLink ≠ [] := by
  simp only [State.waits, State.arrayHolds, Bool.or_eq_true, decide_eq_true_eq, Bool.not_eq_true',
    List.isEmpty_eq_false_iff, or_assoc]
  rfl

theorem State.waits_floor_iff (s : State) : s.waits .floor = true
    ↔ 256 ≤ s.floor.toArray.length ∨ s.floor.onLink ≠ [] := by
  simp only [State.waits, State.floorHolds, Bool.or_eq_true, decide_eq_true_eq, Bool.not_eq_true',
    List.isEmpty_eq_false_iff]
  rfl

theorem State.sourceOk_array_iff (s : State) (src : Half) : s.sourceOk .array src = true ↔ src ≠ s.straps.station :=
  bne_iff_ne

theorem State.sourceOk_floor_iff (s : State) (src : Half) :
    s.sourceOk .floor src = true ↔ src ≠ 0 ∧ src ≠ 0xFFFF ∧ src ≠ s.straps.station := by
  simp [State.sourceOk, and_assoc]

/-! Fields of a frame, most significant byte first (R202). -/

/-- Two fields written as one number are the fields side by side. -/
theorem fields_append {m n : Nat} (x : BitVec m) (y : BitVec n) :
    BitVec.ofNat (m + n) (x.toNat * 2 ^ n + y.toNat) = x ++ y := by
  refine BitVec.eq_of_toNat_eq ?_
  rw [BitVec.toNat_append, BitVec.toNat_ofNat, ← Nat.shiftLeft_eq, ← Nat.shiftLeft_add_eq_or_of_lt y.isLt,
    Nat.mod_eq_of_lt]
  have := x.isLt
  have := y.isLt
  rw [Nat.shiftLeft_eq, Nat.pow_add]
  nlinarith

theorem half16_eq (f : List Byte) (i : Nat) : half16 f i = byteAt f i ++ byteAt f (i + 1) :=
  fields_append (byteAt f i) (byteAt f (i + 1))

theorem word32_eq (f : List Byte) (i : Nat) : word32 f i = half16 f i ++ half16 f (i + 2) :=
  fields_append (half16 f i) (half16 f (i + 2))

theorem long64_eq (f : List Byte) (i : Nat) : long64 f i = word32 f i ++ word32 f (i + 4) :=
  fields_append (word32 f i) (word32 f (i + 4))

theorem kindKnown_iff (k : Byte) :
    kindKnown k = true ↔ (0x01 ≤ k.toNat ∧ k.toNat ≤ 0x0A ∨ 0x10 ≤ k.toNat ∧ k.toNat ≤ 0x17) := by
  simp [kindKnown]

/-- The header checks, one by one. -/
theorem State.headerOk_iff (s : State) (p : Port) (f : Frame) : s.headerOk p f = true
    ↔ frameType f = s.straps.etherType ∧ 22 ≤ f.length ∧ frameLen f ≤ 8208 ∧ 22 + frameLen f ≤ f.length
      ∧ s.sourceOk p (frameSrc f) = true ∧ kindKnown (frameKind f) = true := by
  simp only [State.headerOk, Bool.and_eq_true, beq_iff_eq, decide_eq_true_eq, and_assoc]
  rfl

/-- Settles O12: an arrival by the state of the link, the hold, the source and the header, and each of these checks. -/
theorem linkStateDecidesWhatIsTaken : Obligations.LinkStateDecidesWhatIsTaken := by
  refine ⟨fun c p a s message => ?message, fun c p t f s message => ?frame,
    fun s => ⟨⟨rfl, rfl⟩, fun c => ⟨rfl, rfl⟩, s.waits_array_iff, s.waits_floor_iff,
      fun src => ⟨s.sourceOk_array_iff src, s.sourceOk_floor_iff src⟩, fun p f => ?header⟩⟩
  case message =>
    obtain ⟨effect, run⟩ := exec_of_arrivalAt message
    rw [run]
    exact ⟨fun down => by rw [State.arrive_down down], fun up held => by rw [State.arrive_held up held],
      fun up free refused => by rw [State.arrive_refused up free refused]⟩
  case frame =>
    obtain ⟨effect, run⟩ := exec_of_frameAt message
    rw [run]
    exact ⟨fun down => by rw [State.arriveFrame_down down], fun up held => by rw [State.arriveFrame_held up held],
      fun up free refused => by rw [State.arriveFrame_refused up free refused]⟩
  case header =>
    intro half kind len
    have fields (i : Nat) : half i = half16 f i := (half16_eq f i).symm
    have length : len = frameLen f := congrArg BitVec.toNat (fields 20)
    rw [s.headerOk_iff p f, kindKnown_iff, fields, fields, length]
    rfl

/-! ## Messages for stations (R125, R128, R157) -/

theorem exec_forwardedArrayMessage {t : Nat} {f : Frame} (taking : s.TakingFrame .array f)
    (kind : frameKind f = 2 ∨ frameKind f = 3) (station : frameDst f ≠ s.straps.station) :
    exec (.forwardedArrayMessage t f) s = .next ((s.stamp t).forwardToFloor f).settle := by
  change execForwardedArrayMessage t f s = _
  unfold execForwardedArrayMessage
  rw [State.arriveFrame_taken taking]
  exact settled_congr (if_pos ⟨kind, station⟩)

theorem State.joinTurns_eq (s : State) (src : TurnSource) : s.joinTurns src
    = { s with tx := { s.tx with turns := if src ∈ s.tx.turns then s.tx.turns else s.tx.turns ++ [src] } } := by
  unfold State.joinTurns
  split <;> rfl

/-- Settles O31, by the state of the floor link. -/
theorem arrayMessagesAreForwarded : Obligations.ArrayMessagesAreForwarded := by
  intro s t f taking kind station
  rw [exec_forwardedArrayMessage taking kind station]
  refine ⟨fun up => settled_congr ?_, fun down => settled_congr ?_⟩
  · exact (if_pos up).trans (State.joinTurns_eq _ .forwarding)
  · exact if_neg (Bool.eq_false_iff.1 down)

/-! ## The end of a quiesce (R136, R164) -/

theorem exec_quiesceEnd {a : Arrival} (taking : s.Taking .array a.src) : exec (.quiesceEnd a) s
    = .next (State.settle (if a.len = 0 then (s.stamp a.time).takeQuiesceEnd else s.stamp a.time)) := by
  change execQuiesceEnd a s = _
  unfold execQuiesceEnd
  rw [State.arrive_taken taking]

/-- The state in which a QE has reopened the port and removed every QG that waits. -/
def State.reopened (s : State) : State :=
  { s with array := { s.array with quiesce := .opened, grantWaiting := none,
                                   control := s.array.control.filter (fun m => !m.isGrant) } }

theorem State.takeQuiesceEnd_opened (opened : s.array.quiesce = .opened) : s.takeQuiesceEnd = s := by
  unfold State.takeQuiesceEnd
  rw [opened]

theorem State.takeQuiesceEnd_quiescing (quiescing : s.array.quiesce = .quiescing) : s.takeQuiesceEnd = s.reopened := by
  have inside : s.dropGrants.array.quiesce = .quiescing := quiescing
  unfold State.takeQuiesceEnd
  rw [quiescing]
  dsimp only
  rw [State.setQuiesce_of_same (by simp [inside])]
  rfl

/-- The exit from QUIESCED is a transition. -/
theorem State.takeQuiesceEnd_quiesced (quiesced : s.array.quiesce = .quiesced) :
    s.takeQuiesceEnd = s.reopened.transition .quiesced := by
  have inside : s.dropGrants.array.quiesce = .quiesced := quiesced
  unfold State.takeQuiesceEnd
  rw [quiesced]
  dsimp only
  rw [State.setQuiesce_of_changed (by simp [inside])]
  rfl

/-- Settles O41, by the length and the quiesce state. -/
theorem quiesceEndsReopenThePort : Obligations.QuiesceEndsReopenThePort := by
  intro s a taking
  let v := s.stamp a.time
  have taken (empty : a.len = 0) {u : State} (result : v.takeQuiesceEnd = u) :
      exec (.quiesceEnd a) s = .next u.settle :=
    (exec_quiesceEnd taking).trans (settled_congr ((if_pos empty).trans result))
  refine ⟨fun idle => ?idle, fun empty closed unarmed => taken empty ?unarmed, fun empty =>
    ⟨fun quiescing => taken empty (State.takeQuiesceEnd_quiescing (s := v) quiescing),
      fun quiesced => taken empty (State.takeQuiesceEnd_quiesced (s := v) quiesced)⟩⟩
  case idle =>
    by_cases empty : a.len = 0
    · exact taken empty (State.takeQuiesceEnd_opened (s := v) (idle.resolve_left fun long => long empty))
    · exact (exec_quiesceEnd taking).trans (settled_congr (if_neg empty))
  case unarmed =>
    change v.takeQuiesceEnd = v.reopened
    cases state : s.array.quiesce with
    | opened => exact absurd state closed
    | quiescing => exact State.takeQuiesceEnd_quiescing (s := v) state
    | quiesced =>
      rw [State.takeQuiesceEnd_quiesced (s := v) state]
      exact State.transition_of_noneArmed (s := v.reopened) unarmed .quiesced

end Sys2Proof.Machine
end

section
/-! PROOFS. FRAMES AND COMMANDS: which command a frame spells by its kind, its destination and its verb, and what a port
does with a frame that is given as a malformed one. -/

namespace Sys2Proof.Machine

open Sys2Proof

variable {s : State} {p : Port} {t : Nat} {f : Frame}

/-! ## A frame given as a malformed one -/

theorem exec_malformedFrame_silent (silent : (s.stamp t).commandOf p t f = none) :
    exec (.malformedFrame t p f) s = .next (s.stamp t) := by
  change execMalformedFrame t p f s = _
  unfold execMalformedFrame
  dsimp only
  rw [silent]
  cases (s.stamp t).linkUp p <;> rfl

theorem exec_malformedFrame_spelt {c : Instr} (spelt : (s.stamp t).commandOf p t f = some c) (up : s.linkUp p = true) :
    exec (.malformedFrame t p f) s = .next ((s.stamp t).waitOnLink p c) := by
  change execMalformedFrame t p f s = _
  unfold execMalformedFrame
  dsimp only
  rw [spelt, State.linkUp_stamp, up]

theorem exec_malformedFrame_down (down : s.linkUp p = false) :
    exec (.malformedFrame t p f) s = .next (s.stamp t) := by
  change execMalformedFrame t p f s = _
  unfold execMalformedFrame
  dsimp only
  rw [State.linkUp_stamp, down]

/-! ## The verb of a request (R208, R209) -/

section Requests

variable {a : Arrival} {b : List Byte}

theorem stationCommand_short (short : a.len < 8) : stationCommand a b = none := if_pos short

theorem manageCommand_short (short : a.len < 8) : manageCommand a b = none := if_pos short

theorem stationCommand_unknown (readable : ¬ a.len < 8) (unknown : byteAt b 4 = 0 ∨ 7 < byteAt b 4) :
    stationCommand a b = some (.unknownStationVerb a (word32 b 0) (byteAt b 4) (byteAt b 5)) := by
  have outside : (byteAt b 4).toNat = 0 ∨ 7 < (byteAt b 4).toNat := unknown.imp (congrArg BitVec.toNat) BitVec.lt_def.1
  unfold stationCommand
  rw [if_neg readable]
  split
  iterate 7 next verb => omega
  rfl

theorem manageCommand_unknown (readable : ¬ a.len < 8) (unknown : byteAt b 4 = 0 ∨ 15 < byteAt b 4) :
    manageCommand a b = some (.unknownManageVerb a (word32 b 0) (byteAt b 4)) := by
  have outside : (byteAt b 4).toNat = 0 ∨ 15 < (byteAt b 4).toNat := unknown.imp (congrArg BitVec.toNat) BitVec.lt_def.1
  unfold manageCommand
  rw [if_neg readable]
  split
  iterate 15 next verb => omega
  rfl

end Requests

/-! ## The kind and the destination of a frame (R125, R127) -/

theorem State.commandOf_refused (refused : s.headerOk p f = false) : s.commandOf p t f = none :=
  if_neg (Bool.eq_false_iff.1 refused)

theorem State.commandOf_floor (ok : s.headerOk .floor f = true) : s.commandOf .floor t f = s.floorCommand t f :=
  if_pos ok

theorem State.commandOf_array (ok : s.headerOk .array f = true) : s.commandOf .array t f = s.arrayCommand t f :=
  if_pos ok

theorem State.floorCommand_read (kind : frameKind f = 0x01) : s.floorCommand t f
    = if frameDst f == s.straps.station then none else some (.stationBlockRead t f) := by
  unfold State.floorCommand
  rw [kind]
  rfl

theorem State.floorCommand_request (kind : frameKind f = 0x10) : s.floorCommand t f
    = if frameDst f == s.straps.station then stationCommand (arrivalOf t f) (frameBody f) else none := by
  unfold State.floorCommand
  rw [kind]
  rfl

theorem State.floorCommand_reply (kind : frameKind f = 0x14) : s.floorCommand t f
    = if frameDst f == s.straps.station then some (.probeReply (arrivalOf t f) (byteAt (frameBody f) 0)
        (byteAt (frameBody f) 1) (half16 (frameBody f) 2)) else none := by
  unfold State.floorCommand
  rw [kind]
  rfl

theorem State.floorCommand_grant (kind : frameKind f = 0x15) : s.floorCommand t f
    = if frameDst f == s.straps.station then some (.creditGrant (arrivalOf t f) (byteAt (frameBody f) 0)
        (byteAt (frameBody f) 1)) else none := by
  unfold State.floorCommand
  rw [kind]
  rfl

theorem State.arrayCommand_data (kind : frameKind f = 0x02) : s.arrayCommand t f
    = if frameDst f == s.straps.station then some (.blockDataForPart (arrivalOf t f) (half16 (frameBody f) 0)
        (byteAt (frameBody f) 2) (byteAt (frameBody f) 3) ((byteAt (frameBody f) 4).getLsbD 0)
        (half16 (frameBody f) 6) (word32 (frameBody f) 8) ((frameBody f).drop 12))
      else some (.forwardedArrayMessage t f) := by
  unfold State.arrayCommand
  rw [kind]
  rfl

theorem State.arrayCommand_defer (kind : frameKind f = 0x03) : s.arrayCommand t f
    = if frameDst f == s.straps.station then some (.deferForPart (arrivalOf t f) (half16 (frameBody f) 0)
        (word32 (frameBody f) 4)) else some (.forwardedArrayMessage t f) := by
  unfold State.arrayCommand
  rw [kind]
  rfl

theorem State.arrayCommand_rewrite (kind : frameKind f = 0x04) :
    s.arrayCommand t f = some (.rewriteNotice t f) := by
  unfold State.arrayCommand
  rw [kind]
  rfl

theorem State.arrayCommand_quiesce (kind : frameKind f = 0x05) : s.arrayCommand t f
    = if frameDst f == s.straps.station then some (.quiesceRequest (arrivalOf t f)) else none := by
  unfold State.arrayCommand
  rw [kind]
  rfl

theorem State.arrayCommand_reopen (kind : frameKind f = 0x06) : s.arrayCommand t f
    = if frameDst f == s.straps.station then some (.quiesceEnd (arrivalOf t f)) else none := by
  unfold State.arrayCommand
  rw [kind]
  rfl

theorem State.arrayCommand_manage (kind : frameKind f = 0x08) : s.arrayCommand t f
    = if frameDst f == s.straps.station then manageCommand (arrivalOf t f) (frameBody f) else none := by
  unfold State.arrayCommand
  rw [kind]
  rfl

/-- A frame of another kind spells nothing on the floor port. -/
theorem State.floorCommand_other (other : frameKind f ∉ ([0x01, 0x10, 0x14, 0x15] : List Byte)) :
    s.floorCommand t f = none := by
  have code (k : Byte) (kind : (frameKind f).toNat = k.toNat) : frameKind f = k := BitVec.eq_of_toNat_eq kind
  unfold State.floorCommand
  dsimp only
  split
  · next kind => exact absurd (code 0x01 kind) fun e => other (by simp [e])
  · next kind => exact absurd (code 0x10 kind) fun e => other (by simp [e])
  · next kind => exact absurd (code 0x14 kind) fun e => other (by simp [e])
  · next kind => exact absurd (code 0x15 kind) fun e => other (by simp [e])
  · rfl

/-- A frame of another kind spells nothing on the array port. -/
theorem State.arrayCommand_other (other : frameKind f ∉ ([0x02, 0x03, 0x04, 0x05, 0x06, 0x08] : List Byte)) :
    s.arrayCommand t f = none := by
  have code (k : Byte) (kind : (frameKind f).toNat = k.toNat) : frameKind f = k := BitVec.eq_of_toNat_eq kind
  unfold State.arrayCommand
  dsimp only
  split
  · next kind => exact absurd (code 0x02 kind) fun e => other (by simp [e])
  · next kind => exact absurd (code 0x03 kind) fun e => other (by simp [e])
  · next kind => exact absurd (code 0x04 kind) fun e => other (by simp [e])
  · next kind => exact absurd (code 0x05 kind) fun e => other (by simp [e])
  · next kind => exact absurd (code 0x06 kind) fun e => other (by simp [e])
  · next kind => exact absurd (code 0x08 kind) fun e => other (by simp [e])
  · rfl

/-- Settles O14: the malformed frame by what it spells, and the spelling by port, kind, destination and verb. -/
theorem malformedFramesHaveNoEffect : Obligations.MalformedFramesHaveNoEffect := by
  refine ⟨fun t p f s => ⟨exec_malformedFrame_silent, fun c => exec_malformedFrame_spelt, exec_malformedFrame_down⟩,
    fun s p t f => ?_⟩
  intro field kind own a body byte half word long verb req spelt
  have fields : field = half16 f := funext fun i => (half16_eq f i).symm
  have halves : half = half16 body := funext fun i => (half16_eq body i).symm
  have words : word = word32 body := funext fun i => by rw [word32_eq, ← halves]
  have longs : long = long64 body := funext fun i => by rw [long64_eq, ← words]
  clear_value field half word long
  subst fields halves words longs
  have here (mine : own) : (frameDst f == s.straps.station) = true := beq_iff_eq.2 mine
  have away (theirs : ¬ own) : ¬ (frameDst f == s.straps.station) = true := mt beq_iff_eq.1 theirs
  refine ⟨State.commandOf_refused, fun ok floor => ?floor, fun ok array => ?array⟩
  case floor =>
    subst floor
    have command : spelt = s.floorCommand t f := State.commandOf_floor ok
    rw [command]
    refine ⟨fun read => ⟨fun mine => (State.floorCommand_read read).trans (if_pos (here mine)),
        fun theirs => (State.floorCommand_read read).trans (if_neg (away theirs))⟩, fun request mine => ?request,
      fun reply mine => (State.floorCommand_reply reply).trans (if_pos (here mine)),
      fun grant mine => (State.floorCommand_grant grant).trans (if_pos (here mine)),
      fun addressed theirs => ?theirs, State.floorCommand_other⟩
    case request =>
      rw [State.floorCommand_request request, if_pos (here mine)]
      refine ⟨stationCommand_short, fun readable => ?_⟩
      have readable := Nat.not_lt.2 readable
      refine ⟨?_, ?_, ?_, ?_, ?_, ?_, ?_, stationCommand_unknown readable⟩
      all_goals
        intro known
        exact (if_neg readable).trans (by rw [show byteAt (frameBody f) 4 = _ from known]; rfl)
    case theirs =>
      simp only [List.mem_cons, List.not_mem_nil, or_false] at addressed
      obtain request | reply | grant := addressed
      · exact (State.floorCommand_request request).trans (if_neg (away theirs))
      · exact (State.floorCommand_reply reply).trans (if_neg (away theirs))
      · exact (State.floorCommand_grant grant).trans (if_neg (away theirs))
  case array =>
    subst array
    have command : spelt = s.arrayCommand t f := State.commandOf_array ok
    rw [command]
    refine ⟨fun data mine => (State.arrayCommand_data data).trans (if_pos (here mine)),
      fun defers mine => (State.arrayCommand_defer defers).trans (if_pos (here mine)),
      fun passing theirs => ?passing, State.arrayCommand_rewrite,
      fun quiesce mine => (State.arrayCommand_quiesce quiesce).trans (if_pos (here mine)),
      fun reopen mine => (State.arrayCommand_reopen reopen).trans (if_pos (here mine)),
      fun addressed theirs => ?theirs, State.arrayCommand_other, fun manage mine short => ?short,
      fun manage mine readable => ?readable⟩
    case passing =>
      simp only [List.mem_cons, List.not_mem_nil, or_false] at passing
      obtain data | defers := passing
      · exact (State.arrayCommand_data data).trans (if_neg (away theirs))
      · exact (State.arrayCommand_defer defers).trans (if_neg (away theirs))
    case theirs =>
      simp only [List.mem_cons, List.not_mem_nil, or_false] at addressed
      obtain quiesce | reopen | manage := addressed
      · exact (State.arrayCommand_quiesce quiesce).trans (if_neg (away theirs))
      · exact (State.arrayCommand_reopen reopen).trans (if_neg (away theirs))
      · exact (State.arrayCommand_manage manage).trans (if_neg (away theirs))
    case short =>
      rw [State.arrayCommand_manage manage, if_pos (here mine)]
      exact manageCommand_short short
    case readable =>
      rw [State.arrayCommand_manage manage, if_pos (here mine)]
      have readable := Nat.not_lt.2 readable
      refine ⟨?_, ?_, ?_, ?_, ?_, ?_, ?_, ?_, ?_, ?_, ?_, ?_, ?_, ?_, ?_, manageCommand_unknown readable⟩
      all_goals
        intro known
        exact (if_neg readable).trans (by rw [show byteAt (frameBody f) 4 = _ from known]; rfl)

end Sys2Proof.Machine
end

section
/-! PROOFS. THE TRANSMITTERS: what a free transmitter takes from its queues, and which record the fetch scheduler
issues. -/

namespace Sys2Proof.Machine

open Sys2Proof

variable {s : State}

/-! ## Free transmitters (R131, R156) -/

theorem State.arrayFree_iff (s : State) : s.arrayFree = true
    ↔ s.array.linkUp = true ∧ s.array.partnerHolds = false ∧ s.array.sending = none := by
  simp [State.arrayFree, and_assoc]

theorem State.floorFree_iff (s : State) : s.floorFree = true
    ↔ s.floor.linkUp = true ∧ s.floor.partnerHolds = false ∧ s.tx.sending = none := by
  simp [State.floorFree, and_assoc]

/-! ## The array transmitter (R131 to R133) -/

section Array

variable {turn : ArrayTurn}

theorem State.arrayChoose_control (free : s.arrayFree = true) {m : ArrayControl} {t : List ArrayControl}
    (front : s.array.control = m :: t) :
    s.arrayChoose = { s with array := { s.array with control := t, sending := some (.control m) } } := by
  unfold State.arrayChoose
  rw [if_pos free, front]
  rfl

theorem State.arrayChoose_read (free : s.arrayFree = true) (none : s.array.control = []) :
    s.arrayChoose = s.startRead.getD s := by
  unfold State.arrayChoose
  rw [if_pos free, none]

theorem State.startForwarded_none (empty : s.floor.toArray = []) : s.startForwarded turn = none := by
  unfold State.startForwarded
  rw [empty]

theorem State.startForwarded_front {f : Frame} {t : List Frame} (front : s.floor.toArray = f :: t) :
    s.startForwarded turn
      = some (State.startArray { s with floor := { s.floor with toArray := t } } (.forwarded f) turn) := by
  unfold State.startForwarded
  rw [front]

theorem State.startOwn_closed (closed : s.array.quiesce ≠ .opened) : s.startOwn turn = none := if_neg closed

theorem State.startOwn_none (none : s.fetchTurn = none) : s.startOwn turn = .none := by
  unfold State.startOwn
  rw [none, ite_self]

theorem State.startOwn_read (opened : s.array.quiesce = .opened) {br : OwnRead} {w : State}
    (read : s.fetchTurn = some (br, w)) : s.startOwn turn = some (w.startArray (.read br) turn) := by
  unfold State.startOwn
  rw [if_pos opened, read]

/-- A class with nothing to send never holds back the other. -/
theorem State.startRead_own (none : s.startOwn .forwarded = .none) : s.startRead = s.startForwarded .own := by
  unfold State.startRead
  cases s.array.turn <;> simp [none]

theorem State.startRead_forwarded (none : s.startForwarded .own = .none) : s.startRead = s.startOwn .forwarded := by
  unfold State.startRead
  cases s.array.turn <;> simp [none]

end Array

/-! ## The fetch scheduler's turn (R102, R103, R110) -/

section Fetch

variable {i : Nat} {x : Span} {f : Fetch} {tag : TagIndex}

theorem State.fetchTurn_continuation {rest : List Nat} (waiting : s.fetch.continuations = i :: rest)
    (span : s.buffer.span i = some x) (filling : x.state = .filling f) (held : f.tag = some tag) :
    s.fetchTurn = some (s.sendContinuation i x f tag) := by
  unfold State.fetchTurn
  rw [waiting]
  dsimp only
  rw [span]
  dsimp only
  rw [Span.fetch_eq_some_iff.2 filling]
  dsimp only
  rw [held]

theorem State.fetchTurn_new (none : s.fetch.continuations = []) : s.fetchTurn = s.issueTurn := by
  unfold State.fetchTurn
  rw [none]

theorem State.issueTurn_held (held : s.fetch.holdUntil ≠ none) : s.issueTurn = none :=
  if_neg fun ended => held (Option.isNone_iff_eq_none.1 ended)

theorem State.issueTurn_untagged (held : s.freeTag = none) : s.issueTurn = none := by
  unfold State.issueTurn
  rw [held]
  split
  · cases queueFront none s.buffer.spans <;> rfl
  · rfl

theorem State.issueTurn_empty (empty : queueFront none s.buffer.spans = none) : s.issueTurn = none := by
  unfold State.issueTurn
  rw [empty]
  exact ite_self _

theorem State.issueTurn_front (ended : s.fetch.holdUntil = none) (front : queueFront none s.buffer.spans = some (i, f))
    (free : s.freeTag = some tag) (span : s.buffer.span i = some x) : s.issueTurn = some (s.issue i x f tag) := by
  have on : s.holdEnded = true := Option.isNone_iff_eq_none.2 ended
  unfold State.issueTurn
  rw [if_pos on, front, free]
  dsimp only
  rw [span]

/-- The lowest tag that no record holds. -/
theorem State.freeTag_eq (free : s.buffer.holder tag = none) (lowest : ∀ j < tag, s.buffer.holder j ≠ none) :
    s.freeTag = some tag := by
  refine List.find?_eq_some_iff_getElem.2 ⟨Option.isNone_iff_eq_none.2 free, tag.1, by simp, by simp, fun j below => ?_⟩
  rw [List.getElem_finRange]
  have held := lowest ⟨j, below.trans tag.2⟩ below
  simpa [Option.isSome_iff_ne_none] using held

theorem State.freeTag_none (held : ∀ tag : TagIndex, s.buffer.holder tag ≠ none) : s.freeTag = none :=
  List.find?_eq_none.2 fun tag _ free => held tag (Option.isNone_iff_eq_none.1 free)

/-- The record of a span after its issue under a tag. -/
def Fetch.sent (f : Fetch) (tag : TagIndex) (now expiry : Nat) : Fetch :=
  { f with state := .issued, tag := some tag, received := 0, check := 0, issueTime := some now, expiry := some expiry,
           firstIssue := some (f.firstIssue.getD now) }

/-- The state in which the record of a span goes out under a tag. -/
def State.sentRead (s : State) (i : Nat) (x : Span) (f : Fetch) (tag : TagIndex) : State :=
  s.putSpan i { x with state := .filling (f.sent tag s.now s.attemptExpiry) }

/-- An issue samples TAGS, which trips nothing while no rule is ARMED. -/
theorem State.issue_unarmed (unarmed : s.NoneArmed) : s.issue i x f tag
    = (ownRead (s.tagValue tag) x.key f.base, { s.sentRead i x f tag with
        pressure := { s.pressure with
          tags := s.pressure.tags.sample s.tables.active.shed.tags (s.sentRead i x f tag).issuedCount }
        fetch := { s.fetch with counts := { s.fetch.counts with issues := s.fetch.counts.issues + 1 } } }) := by
  have counted : ((s.sentRead i x f tag).count fun c => { c with issues := c.issues + 1 }).NoneArmed := unarmed
  have sampled : s.issue i x f tag = (ownRead (s.tagValue tag) x.key f.base,
      ((s.sentRead i x f tag).count fun c => { c with issues := c.issues + 1 }).sampleTags) := by
    unfold State.issue State.sentRead Fetch.sent
    cases f.firstIssue <;> rfl
  rw [sampled, State.sampleTags_of_noneArmed counted]
  rfl

end Fetch

/-! ## The floor transmitter (R152, R154 to R157) -/

section Floor

variable {turn : FloorTurn}

theorem State.floorChoose_control (free : s.floorFree = true) {m : FloorControl} {t : List FloorControl}
    (front : s.tx.control = m :: t) :
    s.floorChoose = { s with tx := { s.tx with control := t, sending := some (.control m) } } := by
  unfold State.floorChoose
  rw [if_pos free, front]

theorem State.floorChoose_data (free : s.floorFree = true) (none : s.tx.control = []) :
    s.floorChoose = s.startData.getD s := by
  unfold State.floorChoose
  rw [if_pos free, none]

/-- The frame data that can be sent next, with the delivery queue behind it: of the frame in transmission, or else of
the front of the queue (R155, R156). -/
def State.dueFrame (s : State) : Option (Delivery × List Delivery) :=
  match s.tx.current, s.tx.queue with
  | some d, q => if d.next < d.segments then some (d, q) else none
  | none, d :: q => some (d, q)
  | none, [] => none

theorem State.startFrameData_eq (s : State) :
    s.startFrameData turn = s.dueFrame.map fun r => s.startSegment r.1 r.2 turn := by
  unfold State.startFrameData State.dueFrame
  cases s.tx.current with
  | some d =>
    dsimp only
    split <;> rfl
  | none => cases s.tx.queue <;> rfl

/-- The block data that can be sent next, with the state that it leaves: of the source at the front of the turn list
(R157). -/
def State.dueBlock (s : State) : Option (FloorMessage × State) :=
  match s.tx.turns with
  | [] => none
  | .forwarding :: rest => match s.array.toFloor with
    | [] => none
    | f :: t => some (.forwarded f, { s with
      array := { s.array with toFloor := t }
      tx := { s.tx with turns := if t = [] then rest else rest ++ [.forwarding] } })
  | .answer serial :: rest => match s.localAnswer serial with
    | none => none
    | some a => match a.ready with
      | none => none
      | some bd => some (.answer serial bd, { s with
        buffer := { s.buffer with answers := s.buffer.answers.map fun b =>
          if b.serial = serial then { a with ready := none } else b }
        tx := { s.tx with turns := rest } })

/-- A message of block data starts in the state that it leaves. -/
def State.sendBlock (s : State) (m : FloorMessage) (turn : FloorTurn) : State :=
  { s with tx := { s.tx with sending := some m, turn := turn } }

/-- The local answer that a serial number finds has that number. -/
theorem State.serial_of_localAnswer {serial : Nat} {a : LocalAnswer} (found : s.localAnswer serial = some a) :
    a.serial = serial := by
  have named := List.find?_some found
  exact beq_iff_eq.1 named

theorem State.startBlockData_eq (s : State) :
    s.startBlockData turn = s.dueBlock.map fun r => r.2.sendBlock r.1 turn := by
  unfold State.startBlockData State.dueBlock
  cases s.tx.turns with
  | nil => rfl
  | cons source rest => cases source with
    | forwarding => cases s.array.toFloor with
      | nil => rfl
      | cons f t => cases t <;> rfl
    | answer serial =>
      dsimp only
      cases found : s.localAnswer serial with
      | none => rfl
      | some a =>
        obtain rfl := State.serial_of_localAnswer found
        dsimp only
        cases a.ready <;> rfl

/-- Frame data starts in its turn, or where no block data can be sent. -/
theorem State.floorChoose_frame (free : s.floorFree = true) (empty : s.tx.control = []) {d : Delivery}
    {q : List Delivery} (due : s.dueFrame = some (d, q)) (next : s.tx.turn = .frame ∨ s.dueBlock = none) :
    s.floorChoose = s.startSegment d q .block := by
  rw [State.floorChoose_data free empty]
  unfold State.startData
  rw [State.startFrameData_eq, State.startBlockData_eq, due]
  obtain turn | none := next
  · simp [turn]
  · rw [none]
    cases s.tx.turn <;> rfl

/-- Block data starts in its turn, or where no frame data can be sent. -/
theorem State.floorChoose_block (free : s.floorFree = true) (empty : s.tx.control = []) {m : FloorMessage} {w : State}
    (due : s.dueBlock = some (m, w)) (next : s.tx.turn = .block ∨ s.dueFrame = none) :
    s.floorChoose = w.sendBlock m .frame := by
  rw [State.floorChoose_data free empty]
  unfold State.startData
  rw [State.startFrameData_eq, State.startBlockData_eq, due]
  obtain turn | none := next
  · simp [turn]
  · rw [none]
    cases s.tx.turn <;> rfl

theorem State.floorChoose_none (free : s.floorFree = true) (empty : s.tx.control = []) (frame : s.dueFrame = none)
    (block : s.dueBlock = none) : s.floorChoose = s := by
  rw [State.floorChoose_data free empty]
  unfold State.startData
  rw [State.startFrameData_eq, State.startBlockData_eq, frame, block]
  cases s.tx.turn <;> rfl

theorem State.dueFrame_current {d : Delivery} (current : s.tx.current = some d) :
    s.dueFrame = if d.next < d.segments then some (d, s.tx.queue) else none := by
  unfold State.dueFrame
  rw [current]

theorem State.dueBlock_none (none : s.tx.turns = []) : s.dueBlock = .none := by
  unfold State.dueBlock
  rw [none]

end Floor

/-! ## Segments (R154) -/

theorem State.segment_fields (s : State) (d : Delivery) :
    (s.segment d).index = d.next ∧ (s.segment d).handle = d.handle ∧ (s.segment d).frame = d.frame
    ∧ (s.segment d).count = d.segments ∧ ((s.segment d).last = true ↔ d.next + 1 = d.segments) := by
  unfold State.segment
  dsimp only
  split <;> exact ⟨rfl, rfl, rfl, rfl, beq_iff_eq⟩

/-- The addresses of the blocks of a slot's frame, in frame order. -/
def Slot.addresses (x : Slot) : List Nat :=
  x.pages.flatMap fun e => match e.span with
    | none => []
    | some i => (List.range e.count).map fun j => (i * 256 + (e.first + j)) * 4096

theorem Slot.addresses_eq (x : Slot) : x.addresses = x.places.map fun p => blockAddress p.1 p.2 := by
  unfold Slot.addresses Slot.places
  rw [List.map_flatMap]
  refine List.flatMap_congr fun e _ => ?_
  cases e.span with
  | none => rfl
  | some i =>
    rw [List.map_map]
    rfl

/-- The payload of a segment is read at the addresses of its two blocks. -/
theorem State.payload_eq (s : State) (x : Slot) (k : Nat) : s.payload x k
    = ((x.addresses.drop (2 * k)).take 2).flatMap fun a => Memory.readBytes s.buffer.memory a 4096 := by
  unfold State.payload
  rw [x.addresses_eq, ← List.map_drop, ← List.map_take, List.flatMap_map]
  rfl

theorem State.segment_of_slot {d : Delivery} {x : Slot} (slot : (s.window d.handle).slot d.slot = some x) :
    s.segment d = { dst := d.dst, handle := d.handle, proxy := d.proxy, last := d.next + 1 == d.segments,
                    stale := d.next + 1 == d.segments && x.stale,
                    checkFailed := d.next + 1 == d.segments && x.checkFailed, index := d.next, count := d.segments,
                    frame := d.frame, timecode := d.timecode, payload := s.payload x d.next } := by
  unfold State.segment
  rw [slot]

/-- Settles O57: each transmitter by its queues and its turn, and the turn of a read by the continuations, the hold, the
tags and the fetch queue. -/
theorem transmittersChooseInOrder : Obligations.TransmittersChooseInOrder := by
  intro s
  refine ⟨State.arrayChoose_of_busy, State.floorChoose_of_busy, fun m t free => State.arrayChoose_control free,
    fun m t free => State.floorChoose_control free, fun free empty closed => ?closed,
    fun d free empty current => ?current, ?opened, ⟨fun i rest x f tag waiting span filling held =>
      State.fetchTurn_continuation waiting span filling held, fun none => ⟨fun stays => ?stays,
        fun ended queued unarmed tag free lowest => ?issue⟩⟩, ?data, fun d x slot => ?segment⟩
  case closed =>
    have read : s.arrayChoose = (s.startForwarded .own).getD s := by
      rw [State.arrayChoose_read free empty, State.startRead_own (State.startOwn_closed closed)]
    refine ⟨fun nothing => ?_, fun f t front => ?_⟩
    · rw [read, State.startForwarded_none nothing]
      rfl
    · rw [read, State.startForwarded_front front]
      rfl
  case current =>
    have due := State.dueFrame_current current
    refine ⟨fun more turn => ?_, fun done nothing => ?_⟩
    · obtain ⟨index, handle, frame, count, last⟩ := s.segment_fields d
      refine ⟨s.segment d, index, handle, frame, count, last, ?_⟩
      rw [State.floorChoose_frame free empty (due.trans (if_pos more)) (.inl turn)]
      rfl
    · exact State.floorChoose_none free empty (due.trans (if_neg (Nat.not_lt.2 done))) (State.dueBlock_none nothing)
  case opened =>
    intro sends passes free empty opened
    have chosen := State.arrayChoose_read free empty
    refine ⟨fun f rest front turn => ?_, fun own br w read => ?_, fun none nothing => ?_, fun none f rest front => ?_⟩
    · rw [chosen, State.startRead, turn]
      dsimp only
      rw [State.startForwarded_front front]
      rfl
    · have started : s.startOwn .forwarded = some (w.startArray (.read br) .forwarded) :=
        State.startOwn_read opened read
      obtain turn | nothing := own
      · rw [chosen, State.startRead, turn]
        dsimp only
        rw [started]
        rfl
      · rw [chosen, State.startRead_forwarded (State.startForwarded_none nothing), started]
        rfl
    · rw [chosen, State.startRead_own (State.startOwn_none none), State.startForwarded_none nothing]
      rfl
    · rw [chosen, State.startRead_own (State.startOwn_none none), State.startForwarded_front front]
      rfl
  case stays =>
    rw [State.fetchTurn_new none]
    obtain held | held | empty := stays
    · exact State.issueTurn_held held
    · exact State.issueTurn_untagged (State.freeTag_none held)
    · refine State.issueTurn_empty ?_
      cases front : queueFront .none s.buffer.spans with
      | none => rfl
      | some r =>
        obtain ⟨-, e, listed, -, fetch, state⟩ := queueFront_spec front
        exact absurd ⟨listed, Span.fetch_eq_some_iff.1 fetch, state⟩ (empty e r.2)
  case issue =>
    obtain ⟨e, g, listed, filling, state⟩ := queued
    cases front : queueFront .none s.buffer.spans with
    | none => exact absurd state (queueFront_eq_none front e listed g (Span.fetch_eq_some_iff.2 filling))
    | some r =>
      obtain ⟨leads, ⟨i, y⟩, present, rfl, fetch, waits⟩ := queueFront_spec front
      refine ⟨r.1, r.2, ⟨y, present, Span.fetch_eq_some_iff.1 fetch, waits⟩,
        fun e g ⟨listed, filling, state⟩ => leads e listed g (Span.fetch_eq_some_iff.2 filling) state,
        fun x span => ?_⟩
      rw [State.fetchTurn_new none, State.issueTurn_front ended front (State.freeTag_eq free lowest) span,
        State.issue_unarmed unarmed]
      rfl
  case data =>
    intro frame block sendsFrame sendsBlock free empty
    have frameDue : frame = s.dueFrame := rfl
    have blockDue : block = s.dueBlock := rfl
    rw [frameDue, blockDue]
    exact ⟨fun d q due => ⟨fun turn => State.floorChoose_frame free empty due (.inl turn),
        fun _ none => State.floorChoose_frame free empty due (.inr none)⟩,
      fun m w due => ⟨fun turn => State.floorChoose_block free empty due (.inl turn),
        fun _ none => State.floorChoose_block free empty due (.inr none)⟩, State.floorChoose_none free empty⟩
  case segment =>
    rw [State.segment_of_slot slot, State.payload_eq]
    rfl

end Sys2Proof.Machine
end

section
/-! PROOFS. THE END OF AN EVENT: what the joins and the choices of the two transmitters can write, and with it what they
leave unchanged. -/

namespace Sys2Proof.Machine

open Sys2Proof

variable {s : State}

/-! ## What each part of the end of an event writes -/

/-- The joins place messages in the array transmit queue, behind those that stand there. -/
theorem State.joins_writes (s : State) : ∃ (l : List ArrayControl) (g : Option Half) (r : Responder),
    s.joins = { s with array := { s.array with control := s.array.control ++ l, grantWaiting := g }
                       responder := r } := by
  rw [s.joins_eq]
  split <;> exact ⟨_, _, _, rfl⟩

/-- A turn for an own read sends a continuation or issues a record. -/
theorem State.fetchTurn_cases {br : OwnRead} {w : State} (read : s.fetchTurn = some (br, w)) :
    ∃ (i : Nat) (x : Span) (f : Fetch) (tag : TagIndex),
      w = (s.sendContinuation i x f tag).2 ∨ w = (s.issue i x f tag).2 := by
  unfold State.fetchTurn State.issueTurn at read
  split at read
  · split at read
    · split at read
      · split at read
        · cases read
        · exact ⟨_, _, _, _, .inr (congrArg Prod.snd (Option.some.inj read)).symm⟩
      · cases read
    · cases read
  · split at read
    · cases read
    · split at read
      · cases read
      · split at read
        · cases read
        · exact ⟨_, _, _, _, .inl (congrArg Prod.snd (Option.some.inj read)).symm⟩

/-- The array port's choice starts nothing, its front control message, a read of the part's own or a forwarded one. -/
theorem State.arrayChoose_cases (s : State) : s.arrayChoose = s
    ∨ (∃ (m : ArrayControl) (t : List ArrayControl),
      s.arrayChoose = { s with array := { s.array with control := t, sending := some (.control m) } })
    ∨ (∃ turn, s.startOwn turn = some s.arrayChoose) ∨ ∃ turn, s.startForwarded turn = some s.arrayChoose := by
  cases free : s.arrayFree with
  | false => exact .inl (State.arrayChoose_of_busy free)
  | true => cases waits : s.array.control with
    | cons m t => exact .inr (.inl ⟨m, t, State.arrayChoose_control free waits⟩)
    | nil =>
      rw [State.arrayChoose_read free waits]
      cases read : s.startRead with
      | none => exact .inl rfl
      | some u =>
        unfold State.startRead at read
        split at read
        · obtain own | ⟨-, forwarded⟩ := Option.or_eq_some_iff.1 read
          · exact .inr (.inr (.inl ⟨_, own⟩))
          · exact .inr (.inr (.inr ⟨_, forwarded⟩))
        · obtain forwarded | ⟨-, own⟩ := Option.or_eq_some_iff.1 read
          · exact .inr (.inr (.inr ⟨_, forwarded⟩))
          · exact .inr (.inr (.inl ⟨_, own⟩))

/-- The floor transmitter's choice starts nothing, its front control message, frame data or block data. -/
theorem State.floorChoose_cases (s : State) : s.floorChoose = s
    ∨ (∃ (m : FloorControl) (t : List FloorControl),
      s.floorChoose = { s with tx := { s.tx with control := t, sending := some (.control m) } })
    ∨ (∃ (d : Delivery) (q : List Delivery), s.floorChoose = s.startSegment d q .block)
    ∨ ∃ (m : FloorMessage) (w : State), s.dueBlock = some (m, w) ∧ s.floorChoose = w.sendBlock m .frame := by
  cases free : s.floorFree with
  | false => exact .inl (State.floorChoose_of_busy free)
  | true => cases waits : s.tx.control with
    | cons m t => exact .inr (.inl ⟨m, t, State.floorChoose_control free waits⟩)
    | nil => cases frame : s.dueFrame with
      | none => cases block : s.dueBlock with
        | none => exact .inl (State.floorChoose_none free waits frame block)
        | some b => exact .inr (.inr (.inr ⟨_, _, rfl, State.floorChoose_block free waits block (.inr frame)⟩))
      | some d => cases turn : s.tx.turn with
        | frame => exact .inr (.inr (.inl ⟨_, _, State.floorChoose_frame free waits frame (.inl turn)⟩))
        | block => cases block : s.dueBlock with
          | none => exact .inr (.inr (.inl ⟨_, _, State.floorChoose_frame free waits frame (.inr block)⟩))
          | some b => exact .inr (.inr (.inr ⟨_, _, rfl, State.floorChoose_block free waits block (.inl turn)⟩))

/-- The floor transmitter's choice takes from the queues of block data and writes the transmitter's own record. -/
theorem State.floorChoose_writes (s : State) : ∃ (b : SpanBuffer) (q : List Frame) (x : FloorTransmitter),
    s.floorChoose = { s with buffer := b, array := { s.array with toFloor := q }, tx := x } := by
  obtain nothing | ⟨m, t, control⟩ | ⟨d, q, frame⟩ | ⟨m, w, due, block⟩ := s.floorChoose_cases
  · rw [nothing]
    exact ⟨_, _, _, rfl⟩
  · rw [control]
    exact ⟨_, _, _, rfl⟩
  · rw [frame]
    exact ⟨_, _, _, rfl⟩
  · rw [block]
    unfold State.dueBlock at due
    repeat' split at due
    all_goals cases due
    all_goals exact ⟨_, _, _, rfl⟩

/-! ## The courses of the streams -/

/-- No window, cadence or probe number changes, and no message for the floor. -/
structure SameCourse (s t : State) : Prop where
  windows  : t.windows = s.windows
  cadences : t.cadences = s.cadences
  probes   : t.probes = s.probes
  tx       : t.tx = s.tx

namespace SameCourse

variable {t u : State}

theorem trans (p : SameCourse s t) (q : SameCourse t u) : SameCourse s u :=
  ⟨q.windows.trans p.windows, q.cadences.trans p.cadences, q.probes.trans p.probes, q.tx.trans p.tx⟩

theorem joins (s : State) : SameCourse s s.joins := by
  obtain ⟨l, g, r, joined⟩ := s.joins_writes
  rw [joined]
  exact ⟨rfl, rfl, rfl, rfl⟩

/-- A read is issued with a sample of TAGS, which trips nothing while no rule is ARMED. -/
theorem fetchTurn (unarmed : s.NoneArmed) {br : OwnRead} (read : s.fetchTurn = some (br, t)) : SameCourse s t := by
  obtain ⟨i, x, f, tag, rfl | rfl⟩ := State.fetchTurn_cases read
  · exact ⟨rfl, rfl, rfl, rfl⟩
  · rw [State.issue_unarmed unarmed]
    exact ⟨rfl, rfl, rfl, rfl⟩

theorem startOwn (unarmed : s.NoneArmed) {turn : ArrayTurn} (own : s.startOwn turn = some t) : SameCourse s t := by
  unfold State.startOwn at own
  split at own
  · split at own
    · cases own
    · rename_i read
      cases own
      exact (fetchTurn unarmed read).trans ⟨rfl, rfl, rfl, rfl⟩
  · cases own

theorem startForwarded {turn : ArrayTurn} (forwarded : s.startForwarded turn = some t) : SameCourse s t := by
  unfold State.startForwarded at forwarded
  split at forwarded
  · cases forwarded
  · cases forwarded
    exact ⟨rfl, rfl, rfl, rfl⟩

theorem arrayChoose (unarmed : s.NoneArmed) : SameCourse s s.arrayChoose := by
  obtain nothing | ⟨m, t, control⟩ | ⟨turn, own⟩ | ⟨turn, forwarded⟩ := s.arrayChoose_cases
  · rw [nothing]
    exact ⟨rfl, rfl, rfl, rfl⟩
  · rw [control]
    exact ⟨rfl, rfl, rfl, rfl⟩
  · exact startOwn unarmed own
  · exact startForwarded forwarded

/-- Up to the choice of the floor transmitter. -/
theorem beforeFloor (unarmed : s.NoneArmed) : SameCourse s s.joins.arrayChoose.joins :=
  ((joins s).trans (arrayChoose ((SameRecords.joins s).noneArmed unarmed))).trans (joins _)

end SameCourse

/-! ## The end of an event -/

/-- A free array transmitter starts the front control message in the event itself. -/
theorem State.settle_startsArrayControl (free : s.arrayFree = true) {m : ArrayControl} {rest : List ArrayControl}
    (front : s.array.control = m :: rest) : s.settle.array.sending = some (.control m) := by
  obtain ⟨l, g, r, joined⟩ := s.joins_writes
  have queue : s.joins.array.control = m :: (rest ++ l) := by
    rw [joined, front]
    rfl
  have still : s.joins.arrayFree = true := by
    rw [joined]
    exact free
  obtain ⟨l', g', r', again⟩ := s.joins.arrayChoose.joins_writes
  obtain ⟨b, q, x, chosen⟩ := s.joins.arrayChoose.joins.floorChoose_writes
  unfold State.settle
  rw [chosen, again, State.arrayChoose_control still queue]

/-- With no rule ARMED, nothing joins the floor control queue before the floor transmitter chooses. -/
theorem State.settle_takesControl (unarmed : s.NoneArmed) (free : s.floorFree = true) {m : FloorControl}
    {rest : List FloorControl} (front : s.tx.control = m :: rest) : s.settle.tx.control = rest := by
  have course := SameCourse.beforeFloor unarmed
  have floor : s.joins.arrayChoose.joins.floor = s.joins.arrayChoose.floor := State.joins_floor _
  have chosen := s.joins.arrayChoose_leavesFloor
  have still : s.joins.arrayChoose.joins.floorFree = true := by
    unfold State.floorFree at *
    rw [course.tx, floor, chosen.up, chosen.holds, State.joins_floor]
    exact free
  unfold State.settle
  rw [State.floorChoose_control still (course.tx ▸ front)]

/-- With no rule ARMED, the end of an event leaves every window, cadence and probe number. -/
theorem State.settle_course (unarmed : s.NoneArmed) :
    s.settle.windows = s.windows ∧ s.settle.cadences = s.cadences ∧ s.settle.probes = s.probes := by
  have course := SameCourse.beforeFloor unarmed
  obtain ⟨b, q, x, chosen⟩ := s.joins.arrayChoose.joins.floorChoose_writes
  unfold State.settle
  rw [chosen]
  exact ⟨course.windows, course.cadences, course.probes⟩

/-- Settles O58: the joins and the choices by what they write, and the rest by `Steady`. -/
theorem settlingMovesMessagesOnly : Obligations.SettlingMovesMessagesOnly := by
  intro s
  have steady := Steady.settle s
  refine ⟨rfl, rfl, fun m rest free => State.settle_startsArrayControl free, fun m rest free front => ?control,
    s.arrayFree_iff, s.floorFree_iff, steady.now, steady.pins, steady.straps, steady.tables, steady.memory, steady.hold,
    steady.pending, steady.arrayUp, steady.floorUp, steady.quiesce, fun unarmed => ?unarmed⟩
  case control =>
    obtain ⟨sent, kept⟩ := State.settle_startsControl free front
    exact ⟨sent, kept, fun unarmed => State.settle_takesControl unarmed free front⟩
  case unarmed =>
    have records := SameRecords.settle unarmed
    obtain ⟨windows, cadences, probes⟩ := State.settle_course unarmed
    exact ⟨records.streams, windows, cadences, records.rules, probes⟩

end Sys2Proof.Machine
end

section
/-! PROOFS. FRAMES APART: what stands on the floor port after an event is what stood there, nothing, or a segment of the
frame in transmission; an event above the ports leaves the transmitter, frees it, or works below the ports. -/

namespace Sys2Proof.Machine

open Sys2Proof

variable {s t : State}

/-! ## The floor transmitter after the answer to an MQ -/

theorem State.tx_answerManage (s : State) (dst : Half) (req : Word) (verb : Byte) (e : ManageResult)
    (body : AnswerBody) : (s.answerManage dst req verb e body).tx = s.tx := by
  unfold State.answerManage
  split <;> rfl

theorem State.tx_reply (s : State) (a : Arrival) (req : Word) (v : ManageVerb) (e : ManageResult) :
    (s.reply a req v e).tx = s.tx := s.tx_answerManage ..

theorem State.tx_stage (s : State) (a : Arrival) (req : Word) (v : ManageVerb) (edit : Except ManageResult Bank) :
    (s.stage a req v edit).tx = s.tx := by
  unfold State.stage
  split
  · exact s.tx_reply ..
  · split
    · exact s.tx_reply ..
    · exact State.tx_reply ..

theorem State.tx_takeReadClip (s : State) (a : Arrival) (req clip : Word) (bank given : Byte) (edition : Word) :
    (s.takeReadClip a req clip bank given edition).tx = s.tx := by
  unfold State.takeReadClip
  split
  · exact s.tx_reply ..
  · split
    · exact s.tx_reply ..
    · exact s.tx_answerManage ..

theorem State.tx_takeReadStream (s : State) (a : Arrival) (req : Word) (b : Byte) :
    (s.takeReadStream a req b).tx = s.tx := by
  unfold State.takeReadStream
  split
  · exact s.tx_reply ..
  · split
    · exact s.tx_answerManage ..
    · exact s.tx_reply ..

/-! ## The segment in transmission (R155, R160) -/

/-- The segment in transmission is one of the frame in transmission, or its frame has been abandoned. The condition is
wrapped in a structure so that a proof about it does not compute the transmitter of the state it is about. -/
structure State.FramesApart (s : State) : Prop where
  segment : s.SegmentOk

namespace State.FramesApart

/-- An operation below the ports starts no segment, and one that takes the frame away abandons it first. -/
theorem keeps (ok : s.FramesApart) (k : Keeps s t) : t.FramesApart := ⟨k.segment ok.segment⟩

theorem steady (ok : s.FramesApart) (k : Steady s t) : t.FramesApart := ⟨k.segment ok.segment⟩

/-- An operation that leaves the floor transmitter. -/
theorem same (ok : s.FramesApart) (tx : t.tx = s.tx := by exact rfl) : t.FramesApart := by
  obtain ⟨segment⟩ := ok
  refine ⟨?_⟩
  unfold State.SegmentOk at *
  rwa [tx]

/-- A transmitter that sends nothing holds no segment. -/
theorem of_silent (silent : t.tx.sending = none) : t.FramesApart := by
  refine ⟨?_⟩
  unfold State.SegmentOk
  rw [silent]
  trivial

/-- An effect that a condition may hold back. -/
theorem ite {b : Prop} [Decidable b] (ok : s.FramesApart) (e : t.FramesApart) : (if b then t else s).FramesApart := by
  split
  · exact e
  · exact ok

/-- A request too short to be read has no effect. -/
theorem readable (ok : s.FramesApart) (a : Arrival) {effect : State → State} (e : (effect s).FramesApart) :
    (s.readable a effect).FramesApart := by
  unfold State.readable
  split
  · exact ok
  · exact e

/-! Messages that cross the part, local answers and rewrite notices. -/

theorem forwardToFloor (ok : s.FramesApart) (f : Frame) : (s.forwardToFloor f).FramesApart := by
  have placed : State.FramesApart { s with array := { s.array with toFloor := s.array.toFloor ++ [f] } } := ok.same
  exact ok.ite (placed.keeps ((Keeps.refl _).joinTurns _))

theorem forwardToArray (ok : s.FramesApart) (f : Frame) : (s.forwardToArray f).FramesApart := ok.ite ok.same

theorem offerRead (ok : s.FramesApart) (f : Frame) : (s.offerRead f).FramesApart := by
  unfold State.offerRead
  split
  · exact ok.forwardToArray f
  · split
    · exact ok.forwardToArray f
    · exact ok.keeps ((Keeps.refl s).startAnswer ..)

theorem takeRewrite (ok : s.FramesApart) (f : Frame) : (s.takeRewrite f).FramesApart := by
  have rewritten (w : Rewrite) : (s.rewrite w).FramesApart := ok.keeps ((Keeps.refl s).rewrite w)
  unfold State.takeRewrite
  split
  · exact ok
  · split
    · exact rewritten _
    · exact (rewritten _).forwardToFloor f

/-! Block data and quiesce. -/

theorem blockData (ok : s.FramesApart) (len : Nat) (tag : Half) (offset count : Nat) (final : Bool) (total : Nat)
    (check : Word) (data : List Byte) : (s.blockData len tag offset count final total check data).FramesApart := by
  have stale : s.staleReply.FramesApart := ok.keeps (Keeps.refl s).staleReply
  have stored (a : Nat) (bs : List Byte) : (s.store a bs).FramesApart := ok.same
  unfold State.blockData
  dsimp only
  split
  · exact stale
  · split
    · exact stale
    · split
      · exact stale
      · split
        · exact stale
        · split
          · split
            · exact (stored _ _).keeps (((Keeps.refl _).putSpan _ _).finalBlock ..)
            · exact (stored _ _).keeps ((Keeps.refl _).putSpan _ _)
          · exact ok.keeps ((Keeps.refl s).failedAttempt ..)

theorem setQuiesce (ok : s.FramesApart) (q : Quiesce) : (s.setQuiesce q).FramesApart := by
  have moved : State.FramesApart { s with array := { s.array with quiesce := q } } := ok.same
  unfold State.setQuiesce
  dsimp only
  split
  · exact moved
  · exact moved.keeps ((Keeps.refl _).transition _)

theorem drainEnd (ok : s.FramesApart) : s.drainEnd.FramesApart :=
  ok.ite ((ok.setQuiesce .quiesced).steady (Steady.placeGrant _))

theorem takeQuiesceRequest (ok : s.FramesApart) (src : Half) : (s.takeQuiesceRequest src).FramesApart := by
  have asked : State.FramesApart { s with array := { s.array with asker := some src } } := ok.same
  unfold State.takeQuiesceRequest
  split
  · exact ((asked.setQuiesce _).keeps (Keeps.refl _).leaveOpen).drainEnd
  · exact ok
  · split
    · exact ok
    · exact asked.steady (Steady.placeGrant _)

theorem takeQuiesceEnd (ok : s.FramesApart) : s.takeQuiesceEnd.FramesApart := by
  have dropped : s.dropGrants.FramesApart := ok.same
  unfold State.takeQuiesceEnd
  split
  · exact ok
  · exact dropped.setQuiesce _
  · exact dropped.setQuiesce _

/-! Management. -/

theorem bare (ok : s.FramesApart) (a : Arrival) (req : Word) (v : ManageVerb) {effect : State → State}
    (e : (effect s).FramesApart) : (s.bare a req v effect).FramesApart := by
  unfold State.bare
  split
  · exact e
  · exact ok.same (s.tx_reply ..)

theorem takeCommit (ok : s.FramesApart) (a : Arrival) (req : Word) : (s.takeCommit a req).FramesApart := by
  have replied (e : ManageResult) : (s.reply a req .commit e).FramesApart := ok.same (s.tx_reply ..)
  have swapped : State.FramesApart { s with tables := s.tables.swap a.src req } := ok.same
  unfold State.takeCommit
  split
  · exact replied _
  · split
    · exact replied _
    · split
      · exact replied _
      · split
        · exact replied _
        · exact swapped.keeps ((Keeps.refl _).rearm _)

theorem takeClear (ok : s.FramesApart) (a : Arrival) (req : Word) (rule : Byte) :
    (s.takeClear a req rule).FramesApart := by
  unfold State.takeClear
  split
  · exact ok.same (s.tx_reply ..)
  · exact (ok.keeps ((Keeps.refl s).clearRule _)).same (State.tx_reply ..)

theorem resetStreams (ok : s.FramesApart) (a : Arrival) (req : Word) :
    ((s.closeAll handles).reply a req .resetStreams .ok).FramesApart := by
  have closed : Keeps s (s.closeAll handles) := (Keeps.refl s).closeAll handles
  exact (ok.keeps closed).same (State.tx_reply ..)

theorem walkVisit (ok : s.FramesApart) : s.walkVisit.FramesApart := by
  unfold State.walkVisit
  split
  · exact ok
  · split
    · exact (ok.keeps ((Keeps.refl s).visit _)).same
    · exact ok

theorem walkEnd (ok : s.FramesApart) : s.walkEnd.FramesApart := by
  have ended : State.FramesApart { s with tables := s.tables.endWalk } := ok.same
  unfold State.walkEnd
  split
  · exact ok
  · split
    · exact ok
    · exact ended.steady (Steady.answerCommit ..)

/-- A full reset leaves a transmitter that sends nothing. -/
theorem fullReset (s : State) (pins : Straps) : (s.fullReset pins).FramesApart := of_silent rfl

/-! Transmissions and links: each begins with a transmitter that sends nothing. -/

theorem freeFloor (s : State) : s.freeFloor.FramesApart := of_silent rfl

theorem endAnswerBlock (s : State) (serial : Nat) (bd : AnswerData) : (s.endAnswerBlock serial bd).FramesApart := by
  have free := freeFloor s
  unfold State.endAnswerBlock
  dsimp only
  split
  · exact free
  · split
    · exact free.keeps ((Keeps.refl _).endAnswer _)
    · exact free.keeps ((Keeps.refl _).handBlock _)

theorem endFrame (s : State) (d : Delivery) : (s.endFrame d).FramesApart := by
  have free : State.FramesApart { s with tx := { s.tx with sending := none, current := none } } := of_silent rfl
  exact free.keeps ((Keeps.refl _).transmissionEnded ..)

theorem endFloorMessage (ok : s.FramesApart) : s.endFloorMessage.FramesApart := by
  unfold State.endFloorMessage
  split
  · exact ok
  · exact freeFloor s
  · exact freeFloor s
  · exact endAnswerBlock s ..
  · split
    · exact endFrame s _
    · exact freeFloor s

theorem endLastSegment (ok : s.FramesApart) : s.endLastSegment.FramesApart := by
  unfold State.endLastSegment
  split
  · exact ok.ite (endFrame s _)
  · exact ok

theorem endSentBlock (ok : s.FramesApart) : s.endSentBlock.FramesApart := by
  unfold State.endSentBlock
  split
  · exact endAnswerBlock s ..
  · exact ok

theorem loseArray (ok : s.FramesApart) : s.loseArray.FramesApart := by
  have emptied : (State.emptyArray { s with array := { s.array with linkUp := false } }).FramesApart := ok.same
  exact (emptied.setQuiesce _).keeps (Keeps.refl _).returnIssued

theorem loseFloor (s : State) : s.loseFloor.FramesApart := by
  have emptied : (State.emptyFloor { s with floor := { s.floor with linkUp := false } }).FramesApart := of_silent rfl
  exact emptied.keeps (((Keeps.refl _).abandonAnswers _).closeAll _)

end State.FramesApart

/-! ## Every command, and every step -/

theorem portsKeep_framesApart : PortsKeep State.FramesApart where
  stamp _ _ ok := ok.same
  waits _ port _ ok := by cases port <;> exact ok.same
  settle s ok := ok.steady (Steady.settle s)

theorem exec_keeps_framesApart (c : Instr) : ExecKeeps c State.FramesApart := by
  have keep := portsKeep_framesApart
  have station {c : Instr} {a : Arrival} {effect : State → State}
      (run : ∀ s, exec c s = .next (s.arrive .floor c a.time a.src (fun s => s.readable a effect)))
      (k : ∀ s, Keeps s (effect s)) : ExecKeeps c State.FramesApart :=
    keep.arrive run fun s ok => ok.readable a (ok.keeps (k s))
  have manage {c : Instr} {a : Arrival} {effect : State → State}
      (run : ∀ s, exec c s = .next (s.arrive .array c a.time a.src (fun s => s.readableManage a effect)))
      (e : ∀ s, s.FramesApart → (effect s).FramesApart) : ExecKeeps c State.FramesApart :=
    keep.arrive run fun s ok => ok.readable a (e s ok)
  have reset {c : Instr} {pins : Straps} (run : ∀ s, exec c s = .next (s.fullReset pins)) :
      ExecKeeps c State.FramesApart := fun s t _ answers => by
    obtain rfl := Host.Outcome.next.inj ((run s).symm.trans answers)
    exact State.FramesApart.fullReset s pins
  cases c with
  | openStream a req clip choice depth late => exact station (fun _ => rfl) fun s => (Keeps.refl s).openVerb ..
  | prime a req b frame stride | start a req b frame stride | seek a req b frame stride =>
    exact station (fun _ => rfl) fun s => (Keeps.refl s).judge a req b _ fun h => (Keeps.refl s).moveStream ..
  | play a req b =>
    exact station (fun _ => rfl) fun s => (Keeps.refl s).judge a req b _ fun h => (Keeps.refl s).playStream ..
  | pause a req b =>
    exact station (fun _ => rfl) fun s => (Keeps.refl s).judge a req b _ fun h => (Keeps.refl s).pauseStream ..
  | close a req b =>
    exact station (fun _ => rfl) fun s => (Keeps.refl s).judge a req b _ fun h => (Keeps.refl s).closeStream ..
  | unknownStationVerb a req verb b => exact station (fun _ => rfl) fun s => (Keeps.refl s).answer ..
  | probeReply a b verdict number =>
    exact keep.arrive (fun _ => rfl) fun s ok => ok.keeps ((Keeps.refl s).takeProbeReply ..)
  | creditGrant a b n => exact keep.arrive (fun _ => rfl) fun s ok => ok.keeps ((Keeps.refl s).takeCredit ..)
  | stationBlockRead t f => exact keep.arriveFrame (fun _ => rfl) fun s ok => ok.ite (ok.offerRead f)
  | malformedFrame t port f =>
    intro s u ok answers
    obtain rfl := Host.Outcome.next.inj answers
    split
    · exact keep.waits _ _ _ (keep.stamp s t ok)
    · exact keep.stamp s t ok
  | blockDataForPart a tag offset count final total check data =>
    exact keep.arrive (fun _ => rfl) fun s ok => (ok.blockData ..).drainEnd
  | deferForPart a tag delay =>
    exact keep.arrive (fun _ => rfl) fun s ok => (ok.keeps ((Keeps.refl s).deferReply ..)).drainEnd
  | forwardedArrayMessage t f => exact keep.arriveFrame (fun _ => rfl) fun s ok => ok.ite (ok.forwardToFloor f)
  | rewriteNotice t f => exact keep.arriveFrame (fun _ => rfl) fun s ok => ok.ite (ok.takeRewrite f)
  | quiesceRequest a => exact keep.arrive (fun _ => rfl) fun s ok => ok.ite (ok.takeQuiesceRequest a.src)
  | quiesceEnd a => exact keep.arrive (fun _ => rfl) fun s ok => ok.ite ok.takeQuiesceEnd
  | stageClip a req | unstageClip a req | stageStation a req | unstageStation a req | stagePolicy a req
  | stageRule a req | discardStage a req => exact manage (fun _ => rfl) fun s ok => ok.same (s.tx_stage ..)
  | commit a req => exact manage (fun _ => rfl) fun s ok => ok.takeCommit a req
  | clearShed a req rule => exact manage (fun _ => rfl) fun s ok => ok.takeClear a req rule
  | readClip a req clip bank given edition =>
    exact manage (fun _ => rfl) fun s ok => ok.same (s.tx_takeReadClip ..)
  | readStream a req b => exact manage (fun _ => rfl) fun s ok => ok.same (s.tx_takeReadStream ..)
  | readSpanCounts a req | readFetchCounts a req =>
    exact manage (fun _ => rfl) fun s ok => ok.bare a req _ (ok.same (s.tx_answerManage ..))
  | resetStreams a req => exact manage (fun _ => rfl) fun s ok => ok.bare a req _ (ok.resetStreams a req)
  | resetPart a req =>
    exact manage (fun _ => rfl) fun s ok => ok.bare a req _ (State.FramesApart.fullReset s s.pins)
  | unknownManageVerb a req verb => exact manage (fun _ => rfl) fun s ok => ok.same (s.tx_answerManage ..)
  | powerOn t pins | resetPin t pins => exact reset fun _ => rfl
  | probeWindowExpiry t h => exact keep.event (fun _ => rfl) fun s ok => ok.keeps ((Keeps.refl s).endProbe h)
  | dueTime t h => exact keep.event (fun _ => rfl) fun s ok => ok.keeps ((Keeps.refl s).takeDue h)
  | readTimeout t tag => exact keep.event (fun _ => rfl) fun s ok => (ok.keeps ((Keeps.refl s).timeOut tag)).drainEnd
  | notBeforeTimeReached t i => exact keep.event (fun _ => rfl) fun s ok => ok.keeps ((Keeps.refl s).endDefer i)
  | issueHoldEnd t => exact keep.event (fun _ => rfl) fun s ok => ok.ite ok.same
  | commitWalkVisit t => exact keep.event (fun _ => rfl) fun s ok => ok.walkVisit
  | commitWalkEnd t => exact keep.event (fun _ => rfl) fun s ok => ok.walkEnd
  | arrayTransmissionEnd t => exact keep.event (fun _ => rfl) fun s ok => ok.same
  | floorTransmissionEnd t => exact keep.event (fun _ => rfl) fun s ok => ok.endFloorMessage
  | frameTransmissionEnd t => exact keep.event (fun _ => rfl) fun s ok => ok.endLastSegment
  | localAnswerBdSent t => exact keep.event (fun _ => rfl) fun s ok => ok.endSentBlock
  | linkPartnerFlowControl t port holding =>
    exact keep.event (fun _ => rfl) fun s ok => ok.ite (by cases port <;> exact ok.same)
  | arrayLinkDown t => exact keep.event (fun _ => rfl) fun s ok => ok.ite ok.loseArray
  | floorLinkDown t => exact keep.event (fun _ => rfl) fun s ok => ok.ite (State.FramesApart.loseFloor s)
  | arrayLinkUp t | floorLinkUp t => exact keep.event (fun _ => rfl) fun s ok => ok.ite ok.same
  | drainEnd t => exact keep.event (fun _ => rfl) fun s ok => ok.drainEnd
  | waitingQgJoins t => exact keep.event (fun _ => rfl) fun s ok => ok.steady (Steady.joinGrant s)
  | waitingCommitAnswerJoins t =>
    exact keep.event (fun _ => rfl) fun s ok => ok.steady ((Steady.joinGrant s).trans (Steady.joinAnswer _))
  | mnHandover t => exact keep.event (fun _ => rfl) fun s ok => ok.steady (Steady.joins s)
  | allocationQueueServing t => exact keep.event (fun _ => rfl) fun s ok => ok.keeps (Keeps.refl s).serve

/-- Settles O8: every command keeps the frames apart, and the idle step leaves the floor transmitter. -/
theorem stepKeepsFramesApart : Obligations.StepKeepsFramesApart := by
  intro s t segment answers
  have apart : s.FramesApart := ⟨segment⟩
  unfold step at answers
  split at answers
  · obtain rfl := Host.Outcome.next.inj answers
    exact (apart.same (t := s.idle)).segment
  · exact (exec_keeps_framesApart _ _ t apart.same answers).segment

end Sys2Proof.Machine
end

section
/-! PROOFS. DUE TIMES: when a due time is taken, what the head slot's state, the credit and the late policy make of it,
and what each outcome does. -/

namespace Sys2Proof.Machine

open Sys2Proof

variable {s : State} {h : Handle}

/-! ## When a due time is taken (R145) -/

theorem exec_dueTime (s : State) (time : Nat) (h : Handle) :
    exec (.dueTime time h) s = .next ((s.stamp time).takeDue h).settle := rfl

theorem State.reached_iff (s : State) (t : Option Nat) : s.reached t = true ↔ ∃ d : Nat, t = some d ∧ d ≤ s.now := by
  cases t <;> simp [State.reached]

/-- A PLAYING stream that is not waiting has reached its due time. -/
def State.Due (s : State) (h : Handle) : Prop :=
  (s.stream h).state = .playing ∧ (s.cadence h).headWait = false
    ∧ ∃ d : Nat, (s.cadence h).nextDue = some d ∧ d ≤ s.now

theorem State.takeDue_due (due : s.Due h) : s.takeDue h = s.decideDue h := by
  obtain ⟨playing, running, reached⟩ := due
  exact if_pos ⟨playing, running, (s.reached_iff _).2 reached⟩

theorem State.takeDue_early (early : ¬ s.Due h) : s.takeDue h = s := by
  refine if_neg fun ⟨playing, running, reached⟩ => early ?_
  exact ⟨playing, running, (s.reached_iff _).1 reached⟩

/-! ## What each outcome does (R145, R146) -/

theorem State.decideDue_wait (wait : s.outcome h = .wait) :
    s.decideDue h = s.setCadence h { s.cadence h with nextDue := none, headWait := true } := by
  unfold State.decideDue
  rw [wait]

theorem State.decideDue_send {x : Slot} (send : s.outcome h = .send x) : s.decideDue h = s.deliverSent h x := by
  unfold State.decideDue
  rw [send]

theorem State.decideDue_gap {x : Slot} {why : GapCause} (gap : s.outcome h = .gap x why) :
    s.decideDue h = s.deliverGap h x why := by
  unfold State.decideDue
  rw [gap]

/-! ## The outcome by the head slot, the credit and the late policy -/

section Outcome

variable {x : Slot} {credit : Nat} {late : LatePolicy}

theorem headOutcome_failed (failed : x.state = .failed) : headOutcome (some x) credit late = .gap x .readFailed := by
  simp only [headOutcome, failed]

theorem headOutcome_ready (ready : x.state = .ready) (funded : 1 ≤ credit) :
    headOutcome (some x) credit late = .send x := by
  cases late <;> simp only [headOutcome, ready, if_pos funded]

theorem headOutcome_late (pending : x.state = .pending) : headOutcome (some x) credit .skip = .gap x .late := by
  simp only [headOutcome, pending]

theorem headOutcome_noCredit (ready : x.state = .ready) : headOutcome (some x) 0 .skip = .gap x .noCredit := by
  simp [headOutcome, ready]

theorem headOutcome_stall (blocked : x.state = .pending ∨ x.state = .ready ∧ credit = 0) :
    headOutcome (some x) credit .stall = .wait := by
  obtain pending | ⟨ready, rfl⟩ := blocked
  · simp only [headOutcome, pending]
  · simp [headOutcome, ready]

end Outcome

theorem State.outcome_empty (empty : (s.window h).slots = []) : s.outcome h = .wait := by
  unfold State.outcome
  rw [empty]
  rfl

theorem State.outcome_head {x : Slot} {rest : List Slot} (head : (s.window h).slots = x :: rest) :
    s.outcome h = headOutcome (some x) (s.stream h).credit (s.stream h).late := by
  unfold State.outcome
  rw [head]
  rfl

/-- Settles O52: a due time by whether it has been reached, and the decision by the row of the table. -/
theorem dueTimesDecideOnTheHead : Obligations.DueTimesDecideOnTheHead := by
  intro s time h r c v due ends waits
  have settles {u : State} (e : v.takeDue h = u) : ends u := (exec_dueTime s time h).trans (settled_congr e)
  have decides (reached : due) {u : State} (e : v.decideDue h = u) : ends u :=
    settles ((State.takeDue_due (s := v) reached).trans e)
  refine ⟨fun early => settles (State.takeDue_early (s := v) early),
    fun reached empty => decides reached (State.decideDue_wait (State.outcome_empty (s := v) empty)),
    fun reached x rest head => ?head⟩
  case head =>
    have outcome : v.outcome h = headOutcome (some x) r.credit r.late := State.outcome_head (s := v) head
    refine ⟨fun failed => ?_, fun ready funded => ?_, fun pending skip => ?_, fun ready broke skip => ?_,
      fun blocked stall => ?_⟩
    · exact decides reached (State.decideDue_gap (outcome.trans (headOutcome_failed failed)))
    · exact decides reached (State.decideDue_send (outcome.trans (headOutcome_ready ready funded)))
    · rw [skip] at outcome
      exact decides reached (State.decideDue_gap (outcome.trans (headOutcome_late pending)))
    · rw [broke, skip] at outcome
      exact decides reached (State.decideDue_gap (outcome.trans (headOutcome_noCredit ready)))
    · rw [stall] at outcome
      exact decides reached (State.decideDue_wait (outcome.trans (headOutcome_stall blocked)))

end Sys2Proof.Machine
end

section
/-! PROOFS. COMPARATORS: what one sample makes of a comparator at each level. -/

namespace Sys2Proof.Machine

open Sys2Proof

/-! ## One sample at each level (R163) -/

/-- At LOW a comparator watches its high threshold. -/
theorem Comparator.sample_low (x : Settings) (n v : Nat) :
    Comparator.sample { level := .low, run := n } x v =
      if x.high ≤ v then
        if x.debounce ≤ n + 1 then { level := .high, run := 0 } else { level := .low, run := n + 1 }
      else { level := .low, run := 0 } := rfl

/-- At HIGH a comparator watches its low threshold. -/
theorem Comparator.sample_high (x : Settings) (n v : Nat) :
    Comparator.sample { level := .high, run := n } x v =
      if v ≤ x.low then
        if x.debounce ≤ n + 1 then { level := .low, run := 0 } else { level := .high, run := n + 1 }
      else { level := .high, run := 0 } := rfl

/-- Settles O59: at each level the threshold is not reached, or the run stays short of the debounce, or meets it. -/
theorem comparatorsFollowTheirThresholds : Obligations.ComparatorsFollowTheirThresholds := by
  intro x n v
  rw [Comparator.sample_low, Comparator.sample_high]
  refine ⟨fun below => ?_, fun reached short => ?_, fun reached full => ?_,
    fun above => ?_, fun reached short => ?_, fun reached full => ?_⟩
  · rw [if_neg (Nat.not_le.2 below)]
  · rw [if_pos reached, if_neg (Nat.not_le.2 short)]
  · rw [if_pos reached, if_pos full]
  · rw [if_neg (Nat.not_le.2 above)]
  · rw [if_pos reached, if_neg (Nat.not_le.2 short)]
  · rw [if_pos reached, if_pos full]

end Sys2Proof.Machine
end

section
/-! PROOFS. MANAGEMENT IN BAND: the three outcomes of a verb that writes the staged bank, for the six staging verbs and
for DISCARD STAGE; and the state after a full reset under the invariants. -/

namespace Sys2Proof.Machine

open Sys2Proof

/-! ## The verbs that write the staged bank (R184, R189) -/

section Staging

variable {s : State} {a : Arrival} {req : Word}

/-- While the walk runs a verb that stages is answered BUSY, whatever its edit would be. -/
theorem State.stage_busy (walking : s.walking = true) (a : Arrival) (req : Word) (v : ManageVerb)
    (edit : Except ManageResult Bank) : s.stage a req v edit = s.answerManage a.src req (verbCode v) .busy .empty :=
  if_pos walking

/-- Taking a message moves the time alone: the walk stands where it stood. -/
theorem State.walking_stamp (s : State) (t : Nat) : (s.stamp t).walking = s.walking := rfl

/-- A command ends with one of the three outcomes of staging: BUSY, the result that refuses its edit, or the edit. -/
structure StagesWith (s : State) (a : Arrival) (req : Word) (c : Instr) (verb : Byte)
    (edit : Except ManageResult Bank) : Prop where
  busy : s.walking = true →
    exec c s = .next (State.settle ((s.stamp a.time).answerManage a.src req verb .busy .empty))
  refused : s.walking = false → ∀ e : ManageResult, edit = .error e →
    exec c s = .next (State.settle ((s.stamp a.time).answerManage a.src req verb e .empty))
  made : s.walking = false → ∀ x : Bank, edit = .ok x →
    exec c s = .next (State.settle
      (State.answerManage { s.stamp a.time with tables := { s.tables with staged := x } } a.src req verb .ok .empty))

/-- A command that the array port takes and that stages an edit of the state has the outcomes of that edit. -/
theorem stagesWith_of_taking {c : Instr} {v : ManageVerb} {edit : State → Except ManageResult Bank}
    (taking : s.Taking .array a.src) (len : 8 ≤ a.len)
    (run : exec c s = .next (s.arrive .array c a.time a.src (fun s => s.readableManage a (fun s =>
      s.stage a req v (edit s))))) : StagesWith s a req c (verbCode v) (edit (s.stamp a.time)) := by
  have staged := exec_manage taking len run
  refine ⟨fun walking => ?_, fun idle e failed => ?_, fun idle x passed => ?_⟩
  · exact staged.trans (settled_congr (State.stage_busy ((s.walking_stamp _).trans walking) a req v _))
  · exact staged.trans (settled_congr (State.stage_refused ((s.walking_stamp _).trans idle) a req v failed))
  · exact staged.trans (settled_congr (State.stage_made ((s.walking_stamp _).trans idle) a req v passed))

/-- DISCARD STAGE is a verb that stages: its edit takes the active bank for the staged one. -/
theorem stagesWith_discardStage (taking : s.Taking .array a.src) (len : 8 ≤ a.len) :
    StagesWith s a req (.discardStage a req) 7 (s.tables.discarded a.len) :=
  stagesWith_of_taking (v := .discardStage) (edit := fun s => s.tables.discarded a.len) taking len rfl

end Staging

/-- Settles O43: each of the six verbs stages its own edit. -/
theorem stagingVerbsEditTheStagedBank : Obligations.StagingVerbsEditTheStagedBank := by
  intro s a req offer clip n shedClass limit policy rule taking len b v c verb edit listed
  have stages {c : Instr} (v : ManageVerb) (edit : State → Except ManageResult Bank)
      (run : exec c s = .next (s.arrive .array c a.time a.src (fun s => s.readableManage a (fun s =>
        s.stage a req v (edit s))))) : StagesWith s a req c (verbCode v) (edit (s.stamp a.time)) :=
    stagesWith_of_taking taking len run
  have outcomes : StagesWith s a req c verb edit := by
    simp only [List.mem_cons, Prod.mk.injEq, List.not_mem_nil, or_false] at listed
    rcases listed with ⟨rfl, rfl, rfl⟩ | ⟨rfl, rfl, rfl⟩ | ⟨rfl, rfl, rfl⟩ | ⟨rfl, rfl, rfl⟩ | ⟨rfl, rfl, rfl⟩ |
      ⟨rfl, rfl, rfl⟩
    · exact stages .stageClip (fun s => s.tables.staged.stageClip a.len offer) rfl
    · exact stages .unstageClip (fun s => s.tables.staged.unstageClip a.len clip) rfl
    · exact stages .stageStation (fun s => s.tables.staged.stageStation a.len s.straps.station n shedClass limit) rfl
    · exact stages .unstageStation (fun s => s.tables.staged.unstageStation a.len n) rfl
    · exact stages .stagePolicy (fun s => s.tables.staged.stagePolicy a.len policy) rfl
    · exact stages .stageRule (fun s => s.tables.staged.stageRule a.len rule) rfl
  exact ⟨outcomes.busy, fun idle => ⟨outcomes.refused idle, outcomes.made idle⟩⟩

/-- Settles O45: DISCARD STAGE stages the active bank. -/
theorem discardStageCopiesTheActiveBank : Obligations.DiscardStageCopiesTheActiveBank := by
  intro s a req taking
  refine ⟨fun idle exact8 => ?_, fun len walking => (stagesWith_discardStage taking len).busy walking⟩
  have active : s.tables.discarded a.len = .ok s.tables.active := if_pos exact8
  exact (stagesWith_discardStage taking (Nat.le_of_eq exact8.symm)).made idle _ active

/-! ## The state after reset under the invariants (R201) -/

/-- The state after reset is one that a full reset leaves. -/
theorem State.reset_eq_fullReset : State.reset = State.reset.fullReset Straps.reset := rfl

/-- Settles O9: what a full reset leaves satisfies each invariant, from any state. -/
theorem resetSatisfiesTheInvariants : Obligations.ResetSatisfiesTheInvariants := by
  obtain ⟨bounded, oneNotice⟩ := State.Queued.fullReset State.reset Straps.reset
  obtain ⟨counted, walkOk⟩ := State.Ranged.fullReset State.reset Straps.reset
  obtain ⟨segmentOk⟩ := State.FramesApart.fullReset State.reset Straps.reset
  unfold Obligations.ResetSatisfiesTheInvariants
  rw [State.reset_eq_fullReset]
  exact ⟨State.memoryOk_fullReset State.reset Straps.reset, bounded, oneNotice, counted, segmentOk, walkOk⟩

end Sys2Proof.Machine
end

section
/-! PROOFS. SHORT REQUESTS: an SQ or MQ whose body ends before its request number and verb, which no rule can answer. -/

namespace Sys2Proof.Machine

open Sys2Proof

variable {s : State} {p : Port} {a : Arrival} {c : Instr} {effect : State → State}

/-! ## Requests too short to be read (R208, R209, check 1) -/

/-- A station's request too short to be read keeps its effect back. -/
theorem State.readable_of_short (short : a.len < 8) : s.readable a effect = s := if_pos short

/-- A management request too short to be read keeps its effect back. -/
theorem State.readableManage_of_short (short : a.len < 8) : s.readableManage a effect = s := if_pos short

theorem exec_station_short (taking : s.Taking p a.src) (short : a.len < 8)
    (run : exec c s = .next (s.arrive p c a.time a.src (fun s => s.readable a effect))) :
    exec c s = .next (s.stamp a.time).settle := by
  rw [run, State.arrive_taken taking, State.readable_of_short short]

theorem exec_manage_short (taking : s.Taking p a.src) (short : a.len < 8)
    (run : exec c s = .next (s.arrive p c a.time a.src (fun s => s.readableManage a effect))) :
    exec c s = .next (s.stamp a.time).settle := by
  rw [run, State.arrive_taken taking, State.readableManage_of_short short]

/-- Settles O13: each of the eight station requests and of the sixteen management requests is read only from 8 bytes on,
and the other commands are no requests. -/
theorem shortRequestsAreDiscarded : Obligations.ShortRequestsAreDiscarded := by
  intro c p a s message request taking short
  cases c with
  | openStream | prime | start | play | pause | seek | close | unknownStationVerb =>
    cases message
    exact exec_station_short taking short rfl
  | stageClip | unstageClip | stageStation | unstageStation | stagePolicy | stageRule | discardStage | commit
  | clearShed | readClip | readStream | readSpanCounts | readFetchCounts | resetStreams | resetPart
  | unknownManageVerb =>
    cases message
    exact exec_manage_short taking short rfl
  | probeReply | creditGrant | blockDataForPart | deferForPart | quiesceRequest | quiesceEnd => cases request
  | _ => cases message

end Sys2Proof.Machine
end

section
/-! PROOFS. THE QUEUE OF COMMANDS: a step runs the front command, every command answers a next state, and no effect of a
command reaches the queue of those behind it. -/

namespace Sys2Proof.Machine

open Sys2Proof

variable {effect : State → State}

/-- Settles O1: the step takes the front command off the queue. -/
theorem stepRunsTheFrontCommand : Obligations.StepRunsTheFrontCommand := fun _ _ _ => rfl

/-! ## The queue after the operations above the ports

An operation below the ports leaves the queue by `Keeps`, and a join or a choice by `Steady`. -/

@[simp] theorem State.answerManage_pending (s : State) (dst : Half) (req : Word) (verb : Byte) (e : ManageResult)
    (body : AnswerBody) : (s.answerManage dst req verb e body).pending = s.pending := by
  unfold State.answerManage
  split <;> rfl

@[simp] theorem State.reply_pending (s : State) (a : Arrival) (req : Word) (v : ManageVerb) (e : ManageResult) :
    (s.reply a req v e).pending = s.pending := s.answerManage_pending ..

@[simp] theorem State.waitOnLink_pending (s : State) (port : Port) (c : Instr) :
    (s.waitOnLink port c).pending = s.pending := by cases port <;> rfl

/-! Messages that cross the part, local answers and rewrite notices. -/

@[simp] theorem State.forwardToFloor_pending (s : State) (f : Frame) : (s.forwardToFloor f).pending = s.pending := by
  unfold State.forwardToFloor
  split
  · exact ((Keeps.refl _).joinTurns _).pending
  · rfl

@[simp] theorem State.forwardToArray_pending (s : State) (f : Frame) : (s.forwardToArray f).pending = s.pending := by
  unfold State.forwardToArray
  split <;> rfl

theorem State.offerRead_pending (s : State) (f : Frame) : (s.offerRead f).pending = s.pending := by
  unfold State.offerRead
  split
  · simp
  · split
    · simp
    · exact ((Keeps.refl s).startAnswer ..).pending

theorem State.takeRewrite_pending (s : State) (f : Frame) : (s.takeRewrite f).pending = s.pending := by
  have rewritten (w : Rewrite) : (s.rewrite w).pending = s.pending := ((Keeps.refl s).rewrite w).pending
  unfold State.takeRewrite
  split
  · rfl
  · split <;> simp [rewritten]

/-! Block data and quiesce. -/

/-- A BD is stale, fails its attempt, or is stored and, when it is the last, ends the attempt. -/
theorem State.blockData_pending (s : State) (len : Nat) (tag : Half) (offset count : Nat) (final : Bool) (total : Nat)
    (check : Word) (data : List Byte) :
    (s.blockData len tag offset count final total check data).pending = s.pending := by
  have stale : s.staleReply.pending = s.pending := (Keeps.refl s).staleReply.pending
  unfold State.blockData
  dsimp only
  split
  · exact stale
  · split
    · exact stale
    · split
      · exact stale
      · split
        · exact stale
        · split
          · split
            · exact (((Keeps.refl _).putSpan _ _).finalBlock ..).pending
            · rfl
          · exact ((Keeps.refl s).failedAttempt ..).pending

@[simp] theorem State.setQuiesce_pending (s : State) (q : Quiesce) : (s.setQuiesce q).pending = s.pending := by
  unfold State.setQuiesce
  dsimp only
  split
  · rfl
  · exact ((Keeps.refl _).transition _).pending

@[simp] theorem State.drainEnd_pending (s : State) : s.drainEnd.pending = s.pending := by
  unfold State.drainEnd
  split
  · exact (Steady.placeGrant _).pending.trans (s.setQuiesce_pending _)
  · rfl

theorem State.takeQuiesceRequest_pending (s : State) (src : Half) : (s.takeQuiesceRequest src).pending = s.pending := by
  unfold State.takeQuiesceRequest
  split
  · simp [(Keeps.refl _).leaveOpen.pending]
  · rfl
  · split
    · rfl
    · exact (Steady.placeGrant _).pending

theorem State.takeQuiesceEnd_pending (s : State) : s.takeQuiesceEnd.pending = s.pending := by
  unfold State.takeQuiesceEnd
  split
  · rfl
  · exact State.setQuiesce_pending ..
  · exact State.setQuiesce_pending ..

/-! Management. -/

theorem State.stage_pending (s : State) (a : Arrival) (req : Word) (v : ManageVerb) (edit : Except ManageResult Bank) :
    (s.stage a req v edit).pending = s.pending := by
  unfold State.stage
  split
  · simp
  · split <;> simp

theorem State.takeCommit_pending (s : State) (a : Arrival) (req : Word) : (s.takeCommit a req).pending = s.pending := by
  have swapped : (s.swap a.src req).pending = s.pending := ((Keeps.refl _).rearm _).pending
  unfold State.takeCommit
  split_ifs <;> simp [swapped]

theorem State.takeClear_pending (s : State) (a : Arrival) (req : Word) (rule : Byte) :
    (s.takeClear a req rule).pending = s.pending := by
  have cleared (r : RuleNumber) : (s.clearRule r).pending = s.pending := ((Keeps.refl s).clearRule r).pending
  unfold State.takeClear
  split <;> simp [cleared]

theorem State.takeReadClip_pending (s : State) (a : Arrival) (req clip : Word) (bank given : Byte) (edition : Word) :
    (s.takeReadClip a req clip bank given edition).pending = s.pending := by
  unfold State.takeReadClip
  split
  · simp
  · split <;> simp

theorem State.takeReadStream_pending (s : State) (a : Arrival) (req : Word) (b : Byte) :
    (s.takeReadStream a req b).pending = s.pending := by
  unfold State.takeReadStream
  split
  · simp
  · split <;> simp

theorem State.resetStreams_pending (s : State) (a : Arrival) (req : Word) :
    ((s.closeAll handles).reply a req .resetStreams .ok).pending = s.pending :=
  (State.reply_pending ..).trans ((Keeps.refl s).closeAll handles).pending

/-- The queue stands outside the part that a full reset clears (notes/assumptions/1.md). -/
theorem State.fullReset_pending (s : State) (pins : Straps) : (s.fullReset pins).pending = s.pending := rfl

theorem State.walkVisit_pending (s : State) : s.walkVisit.pending = s.pending := by
  unfold State.walkVisit
  split
  · rfl
  · split
    · exact ((Keeps.refl s).visit _).pending
    · rfl

theorem State.walkEnd_pending (s : State) : s.walkEnd.pending = s.pending := by
  unfold State.walkEnd
  split
  · rfl
  · split
    · rfl
    · exact (Steady.answerCommit ..).pending

/-! Transmissions and links. -/

@[simp] theorem State.freeFloor_pending (s : State) : s.freeFloor.pending = s.pending := rfl

@[simp] theorem State.endAnswerBlock_pending (s : State) (serial : Nat) (bd : AnswerData) :
    (s.endAnswerBlock serial bd).pending = s.pending := by
  unfold State.endAnswerBlock
  dsimp only
  split
  · rfl
  · split
    · exact ((Keeps.refl s.freeFloor).endAnswer _).pending
    · exact ((Keeps.refl s.freeFloor).handBlock _).pending

@[simp] theorem State.endFrame_pending (s : State) (d : Delivery) : (s.endFrame d).pending = s.pending :=
  ((Keeps.refl _).transmissionEnded d.handle d.slot).pending

theorem State.endFloorMessage_pending (s : State) : s.endFloorMessage.pending = s.pending := by
  unfold State.endFloorMessage
  split
  · rfl
  · rfl
  · rfl
  · simp
  · split <;> simp

theorem State.endLastSegment_pending (s : State) : s.endLastSegment.pending = s.pending := by
  unfold State.endLastSegment
  split
  · split <;> simp
  · rfl

theorem State.endSentBlock_pending (s : State) : s.endSentBlock.pending = s.pending := by
  unfold State.endSentBlock
  split <;> simp

theorem State.setPartner_pending (s : State) (port : Port) (holding : Bool) :
    (s.setPartner port holding).pending = s.pending := by cases port <;> rfl

theorem State.loseArray_pending (s : State) : s.loseArray.pending = s.pending :=
  (Keeps.refl _).returnIssued.pending.trans (State.setQuiesce_pending ..)

theorem State.loseFloor_pending (s : State) : s.loseFloor.pending = s.pending := by
  have lost : Keeps (State.emptyFloor { s with floor := { s.floor with linkUp := false } }) s.loseFloor :=
    ((Keeps.refl _).abandonAnswers _).closeAll _
  exact lost.pending

theorem State.joinAnswers_pending (s : State) : s.joinGrant.joinAnswer.pending = s.pending :=
  ((Steady.joinGrant s).trans (Steady.joinAnswer _)).pending

/-! ## Commands by the way they reach the part -/

/-- An effect leaves the queue of commands. -/
abbrev LeavesQueue (effect : State → State) : Prop := ∀ s : State, (effect s).pending = s.pending

theorem LeavesQueue.of_keeps (k : ∀ s, Keeps s (effect s)) : LeavesQueue effect := fun s => (k s).pending

/-- An effect that a condition may hold back. -/
theorem LeavesQueue.ite {p : State → Prop} [DecidablePred p] (e : LeavesQueue effect) :
    LeavesQueue (fun s => if p s then effect s else s) := fun s => by
  dsimp only
  split
  · exact e s
  · rfl

theorem LeavesQueue.bare (e : LeavesQueue effect) (a : Arrival) (req : Word) (v : ManageVerb) :
    LeavesQueue (fun s => s.bare a req v effect) := fun s => by
  unfold State.bare
  split
  · exact e s
  · exact s.reply_pending ..

/-- A command answers a next state and leaves the queue of those behind it. -/
def CompletesBeforeQueue (c : Instr) : Prop :=
  ∀ s : State, ∃ t : State, exec c s = .next t ∧ t.pending = s.pending

namespace CompletesBeforeQueue

variable {c : Instr} {port : Port} {a : Arrival}

theorem event {time : Nat} (run : ∀ s, exec c s = .next (s.event time effect)) (e : LeavesQueue effect) :
    CompletesBeforeQueue c :=
  fun s => ⟨_, run s, (Steady.settle _).pending.trans (e _)⟩

/-- A message given by its fields: it is dropped, waits on its link, or has its effect. -/
theorem arrive (run : ∀ s, exec c s = .next (s.arrive port c a.time a.src effect)) (e : LeavesQueue effect) :
    CompletesBeforeQueue c := fun s => by
  refine ⟨_, run s, ?_⟩
  obtain dropped | held | ⟨-, taken⟩ := s.arrive_cases port c a.time a.src effect
  · rw [dropped, State.stamp_pending]
  · rw [held, State.waitOnLink_pending, State.stamp_pending]
  · rw [taken, (Steady.settle _).pending, e, State.stamp_pending]

/-- A message given as its whole frame. -/
theorem arriveFrame {time : Nat} {f : Frame} (run : ∀ s, exec c s = .next (s.arriveFrame port c time f effect))
    (e : LeavesQueue effect) : CompletesBeforeQueue c := fun s => by
  refine ⟨_, run s, ?_⟩
  obtain dropped | held | ⟨-, taken⟩ := s.arriveFrame_cases port c time f effect
  · rw [dropped, State.stamp_pending]
  · rw [held, State.waitOnLink_pending, State.stamp_pending]
  · rw [taken, (Steady.settle _).pending, e, State.stamp_pending]

/-- A request has its effect when it is long enough to be read; `readableManage` is the same check. -/
theorem request (run : ∀ s, exec c s = .next (s.arrive port c a.time a.src (fun s => s.readable a effect)))
    (e : LeavesQueue effect) : CompletesBeforeQueue c :=
  arrive run fun s => by
    unfold State.readable
    split
    · rfl
    · exact e s

/-- A verb of an SQ has its effect below the ports. -/
theorem station (run : ∀ s, exec c s = .next (s.arrive .floor c a.time a.src (fun s => s.readable a effect)))
    (k : ∀ s, Keeps s (effect s)) : CompletesBeforeQueue c := request run (.of_keeps k)

end CompletesBeforeQueue

/-! ## Every command -/

open CompletesBeforeQueue

theorem exec_completesBeforeQueue (c : Instr) : CompletesBeforeQueue c := by
  cases c with
  | openStream a req clip choice depth late => exact station (fun _ => rfl) fun s => (Keeps.refl s).openVerb ..
  | prime a req b frame stride | start a req b frame stride | seek a req b frame stride =>
    exact station (fun _ => rfl) fun s => (Keeps.refl s).judge a req b _ fun h => (Keeps.refl s).moveStream ..
  | play a req b =>
    exact station (fun _ => rfl) fun s => (Keeps.refl s).judge a req b _ fun h => (Keeps.refl s).playStream ..
  | pause a req b =>
    exact station (fun _ => rfl) fun s => (Keeps.refl s).judge a req b _ fun h => (Keeps.refl s).pauseStream ..
  | close a req b =>
    exact station (fun _ => rfl) fun s => (Keeps.refl s).judge a req b _ fun h => (Keeps.refl s).closeStream ..
  | unknownStationVerb a req verb b => exact station (fun _ => rfl) fun s => (Keeps.refl s).answer ..
  | probeReply a b verdict number =>
    exact arrive (fun _ => rfl) (.of_keeps fun s => (Keeps.refl s).takeProbeReply ..)
  | creditGrant a b n => exact arrive (fun _ => rfl) (.of_keeps fun s => (Keeps.refl s).takeCredit ..)
  | stationBlockRead t f => exact arriveFrame (fun _ => rfl) (.ite fun s => s.offerRead_pending f)
  | malformedFrame t port f =>
    refine fun s => ⟨_, rfl, ?_⟩
    split
    · exact State.waitOnLink_pending ..
    · rfl
  | blockDataForPart a tag offset count final total check data =>
    exact arrive (fun _ => rfl) fun s => (State.drainEnd_pending _).trans (s.blockData_pending ..)
  | deferForPart a tag delay =>
    exact arrive (fun _ => rfl) fun s => (State.drainEnd_pending _).trans ((Keeps.refl s).deferReply ..).pending
  | forwardedArrayMessage t f => exact arriveFrame (fun _ => rfl) (.ite fun s => s.forwardToFloor_pending f)
  | rewriteNotice t f => exact arriveFrame (fun _ => rfl) (.ite fun s => s.takeRewrite_pending f)
  | quiesceRequest a => exact arrive (fun _ => rfl) (.ite fun s => s.takeQuiesceRequest_pending a.src)
  | quiesceEnd a => exact arrive (fun _ => rfl) (.ite State.takeQuiesceEnd_pending)
  | stageClip a req | unstageClip a req | stageStation a req | unstageStation a req | stagePolicy a req
  | stageRule a req | discardStage a req => exact request (fun _ => rfl) fun s => s.stage_pending ..
  | commit a req => exact request (fun _ => rfl) fun s => s.takeCommit_pending a req
  | clearShed a req rule => exact request (fun _ => rfl) fun s => s.takeClear_pending a req rule
  | readClip a req clip bank given edition => exact request (fun _ => rfl) fun s => s.takeReadClip_pending ..
  | readStream a req b => exact request (fun _ => rfl) fun s => s.takeReadStream_pending ..
  | readSpanCounts a req | readFetchCounts a req =>
    exact request (fun _ => rfl) (.bare (fun s => s.answerManage_pending ..) a req _)
  | resetStreams a req => exact request (fun _ => rfl) (.bare (fun s => s.resetStreams_pending a req) a req _)
  | resetPart a req => exact request (fun _ => rfl) (.bare (fun s => s.fullReset_pending s.pins) a req _)
  | unknownManageVerb a req verb => exact request (fun _ => rfl) fun s => s.answerManage_pending ..
  | powerOn t pins | resetPin t pins => exact fun s => ⟨_, rfl, s.fullReset_pending pins⟩
  | probeWindowExpiry t h => exact event (fun _ => rfl) (.of_keeps fun s => (Keeps.refl s).endProbe h)
  | dueTime t h => exact event (fun _ => rfl) (.of_keeps fun s => (Keeps.refl s).takeDue h)
  | readTimeout t tag =>
    exact event (fun _ => rfl) fun s => (State.drainEnd_pending _).trans ((Keeps.refl s).timeOut tag).pending
  | notBeforeTimeReached t i => exact event (fun _ => rfl) (.of_keeps fun s => (Keeps.refl s).endDefer i)
  | issueHoldEnd t => exact event (fun _ => rfl) (.ite fun _ => rfl)
  | commitWalkVisit t => exact event (fun _ => rfl) State.walkVisit_pending
  | commitWalkEnd t => exact event (fun _ => rfl) State.walkEnd_pending
  | arrayTransmissionEnd t => exact event (fun _ => rfl) fun _ => rfl
  | floorTransmissionEnd t => exact event (fun _ => rfl) State.endFloorMessage_pending
  | frameTransmissionEnd t => exact event (fun _ => rfl) State.endLastSegment_pending
  | localAnswerBdSent t => exact event (fun _ => rfl) State.endSentBlock_pending
  | linkPartnerFlowControl t port holding =>
    exact event (fun _ => rfl) (.ite fun s => s.setPartner_pending port holding)
  | arrayLinkDown t => exact event (fun _ => rfl) (.ite State.loseArray_pending)
  | floorLinkDown t => exact event (fun _ => rfl) (.ite State.loseFloor_pending)
  | arrayLinkUp t | floorLinkUp t => exact event (fun _ => rfl) (.ite fun _ => rfl)
  | drainEnd t => exact event (fun _ => rfl) State.drainEnd_pending
  | waitingQgJoins t => exact event (fun _ => rfl) fun s => (Steady.joinGrant s).pending
  | waitingCommitAnswerJoins t => exact event (fun _ => rfl) State.joinAnswers_pending
  | mnHandover t => exact event (fun _ => rfl) fun s => (Steady.joins s).pending
  | allocationQueueServing t => exact event (fun _ => rfl) (.of_keeps fun s => (Keeps.refl s).serve)

/-- Settles O3: the next state that a command answers has the queue that the command found. -/
theorem commandsKeepTheQueue : Obligations.CommandsKeepTheQueue := by
  intro c s t answers
  obtain ⟨u, run, kept⟩ := exec_completesBeforeQueue c s
  obtain rfl := Host.Outcome.next.inj (run.symm.trans answers)
  exact kept

/-- Settles O4: every command has one of the effects above, and none ends in a fault or a refusal. -/
theorem everyCommandCompletes : Obligations.EveryCommandCompletes := by
  intro c s
  obtain ⟨t, run, -⟩ := exec_completesBeforeQueue c s
  exact ⟨t, run⟩

end Sys2Proof.Machine
end
